-- ==== Sys2Proof/Word.lean ====
section
/-! DEFINITION. The widths of the machine: bytes, instruction words, addresses, timers, register numbers, the 12-bit address field
(spec 00 R8 to R10). -/

namespace Sys2Proof

/-- `ADDR_WIDTH`, the width of PC, I and the stack slots (00 R8, decision D2). -/
abbrev Config.addrWidth : Nat := 16
/-- `TIMER_WIDTH`, the width of DT and ST (00 R8). -/
abbrev Config.timerWidth : Nat := 8

/-- An 8-bit unsigned value: a general register, a byte of memory (10 R30; 20 R70). -/
abbrev Byte := BitVec 8

/-- An instruction word (30 R100). -/
abbrev Word := BitVec 16

/-- An address-wide value: PC, I, a stack slot (10 R33, R36, R37). -/
abbrev Addr := BitVec Config.addrWidth

/-- A timer value: DT, ST (10 R39, R40). -/
abbrev Timer := BitVec Config.timerWidth

/-- A register number, the 4-bit field `x` or `y`; every value names a register (30 R101, R102). -/
abbrev Reg := BitVec 4

/-- The 12-bit address field `nnn` (30 R101). -/
abbrev Addr12 := BitVec 12

/-- `zext_16(nnn)` and `zext_16(V[x])` (00 R10, 30 R102). -/
abbrev zext16 {n : Nat} (b : BitVec n) : Addr := b.setWidth Config.addrWidth

/-- The register number of VF (00 R11). -/
abbrev vfReg : Reg := 0xF#4

end Sys2Proof
end

