-- ==== Sys2Proof/Config.lean ====
section
/-! DEFINITION. What the hardware fixes: the named constants of 00 R8 (the widths stand in Word.lean), the parameters that are
arguments of the model, and the free inputs, which have no body (log 2). The parameters' values stand in Machine/Params.lean. -/

namespace Sys2Proof

/-- `NUM_V`, general registers (00 R8, 10 R30). -/
abbrev Config.numV : Nat := 16
/-- `NUM_KEYS` (00 R8, 10 R42). -/
abbrev Config.numKeys : Nat := 16
/-- `FONT_BASE`, address of glyph 0 (00 R8, 10 R46). -/
abbrev Config.fontBase : Nat := 0
/-- `GLYPH_BYTES`, bytes of one glyph (00 R8, 10 R46). -/
abbrev Config.glyphBytes : Nat := 5
/-- `NUM_GLYPHS` (00 R8, 10 R46). -/
abbrev Config.numGlyphs : Nat := 16

/-- `FONT`, the 80 glyph bytes, five a glyph (00 R8, 10 R46, R47). -/
abbrev Font := Vector Byte (Config.numGlyphs * Config.glyphBytes)

/-- The 16 key levels, index = key value, true = pressed (10 R42, 40 R140). -/
abbrev Keypad := Vector Bool Config.numKeys

/-- `VF_ORDER`: which write to VF comes last when VF is also the destination (42 R201, decision D6). -/
inductive VfOrder where
  | flagLast
  | resultLast
  deriving DecidableEq, Repr

/-- `DRW_COORD_CAPTURE`: whether DRW reads its coordinates before or after VF is cleared (44 R271, decision D7). -/
inductive DrwCoordCapture where
  | beforeClear
  | afterClear
  deriving DecidableEq, Repr

/-- `SHL_PC_ADVANCE`: what 8XYE adds to PC, 2 or the alternative 0 (42 R214, decision D8). -/
inductive ShlPcAdvance where
  | two
  | zero
  deriving DecidableEq, Repr

/-- The parameters that are arguments of the model: the unaudited literals of 93 U9, as 00 R8 asks, and the spec's decided
choices. They stand in `State.cfg`, which no step changes, so that a statement over every state holds for every value of them
(log 9). -/
structure Params where
  /-- `MEM_SIZE`, bytes of memory (00 R8, 20 R70; 93 U9). -/
  memSize : Nat
  /-- `PROG_ORIGIN`, where a program is loaded and PC starts (00 R8, 70 R351; 93 U9). -/
  progOrigin : Nat
  /-- `FB_W`, framebuffer columns (00 R8, 10 R43; 93 U9). -/
  fbW : Nat
  /-- `FB_H`, framebuffer rows (00 R8, 10 R43; 93 U9). -/
  fbH : Nat
  /-- `STACK_DEPTH`, the number of call stack slots (10 R37, decision D22). -/
  stackDepth : Nat
  vfOrder : VfOrder
  shlPcAdvance : ShlPcAdvance
  drwCoordCapture : DrwCoordCapture
  /-- `FX1E_VF_THRESHOLD` (43 R241, decision D23). -/
  fx1eVfThreshold : Addr
  /-- `I_RESET` (10 R57, decision D13). -/
  iReset : Addr
  /-- `FONT` (10 R47, decision D18). -/
  font : Font
  deriving DecidableEq, Repr

/-- `MAX_PROG_LEN`, the longest program `load` takes: `MEM_SIZE - PROG_ORIGIN` (00 R8, 70 R352). -/
def Params.maxProgLen (p : Params) : Nat := p.memSize - p.progOrigin

/-- FREE VALUE (log 2): the keypad snapshot of the n-th tick whose inputs no pending host call supplies (40 R140). -/
opaque Config.keysIn : Nat → Keypad

/-- FREE VALUE (log 2): the random byte of the n-th such tick; no generator, seed or distribution (45 R300, decision D11). -/
opaque Config.rndIn : Nat → Byte

end Sys2Proof
end

