-- ==== Sys2Proof/Syntax.lean ====
section
/-! DEFINITION. The 34 instructions of spec/opcode_table.json, one constructor a row (30 R104). -/

namespace Sys2Proof

/-- One instruction with its operands (30 R102). `UNKNOWN` (30 R105) is no row of the table and no constructor:
it is the decoder's other answer. `shr` and `shl` keep the ignored field `y`, so that every word of the table has its own
term (42 R212, R214). -/
inductive Instr where
  /-- `00E0` CLS (44 R270) -/
  | cls
  /-- `00EE` RET (41 R170) -/
  | ret
  /-- `1NNN` JP nnn (41 R171) -/
  | jp (nnn : Addr12)
  /-- `2NNN` CALL nnn (41 R172) -/
  | call (nnn : Addr12)
  /-- `3XKK` SE Vx, kk (41 R173) -/
  | seImm (x : Reg) (kk : Byte)
  /-- `4XKK` SNE Vx, kk (41 R174) -/
  | sneImm (x : Reg) (kk : Byte)
  /-- `5XY0` SE Vx, Vy (41 R175) -/
  | seReg (x y : Reg)
  /-- `6XKK` LD Vx, kk (42 R202) -/
  | ldImm (x : Reg) (kk : Byte)
  /-- `7XKK` ADD Vx, kk (42 R203) -/
  | addImm (x : Reg) (kk : Byte)
  /-- `8XY0` LD Vx, Vy (42 R204) -/
  | ldReg (x y : Reg)
  /-- `8XY1` OR Vx, Vy (42 R205) -/
  | orReg (x y : Reg)
  /-- `8XY2` AND Vx, Vy (42 R206) -/
  | andReg (x y : Reg)
  /-- `8XY3` XOR Vx, Vy (42 R207) -/
  | xorReg (x y : Reg)
  /-- `8XY4` ADD Vx, Vy (42 R210) -/
  | addReg (x y : Reg)
  /-- `8XY5` SUB Vx, Vy (42 R211) -/
  | sub (x y : Reg)
  /-- `8XY6` SHR Vx (42 R212) -/
  | shr (x y : Reg)
  /-- `8XY7` SUBN Vx, Vy (42 R213) -/
  | subn (x y : Reg)
  /-- `8XYE` SHL Vx (42 R214) -/
  | shl (x y : Reg)
  /-- `9XY0` SNE Vx, Vy (41 R176) -/
  | sneReg (x y : Reg)
  /-- `ANNN` LD I, nnn (43 R240) -/
  | ldI (nnn : Addr12)
  /-- `BNNN` JP V0, nnn (41 R177) -/
  | jpV0 (nnn : Addr12)
  /-- `CXKK` RND Vx, kk (45 R300) -/
  | rnd (x : Reg) (kk : Byte)
  /-- `DXYN` DRW Vx, Vy, n (44 R271) -/
  | drw (x y : Reg) (n : BitVec 4)
  /-- `EX9E` SKP Vx (45 R301) -/
  | skp (x : Reg)
  /-- `EXA1` SKNP Vx (45 R302) -/
  | sknp (x : Reg)
  /-- `FX07` LD Vx, DT (45 R303) -/
  | ldVxDt (x : Reg)
  /-- `FX0A` LD Vx, K (45 R304) -/
  | ldVxK (x : Reg)
  /-- `FX15` LD DT, Vx (45 R305) -/
  | ldDtVx (x : Reg)
  /-- `FX18` LD ST, Vx (45 R306) -/
  | ldStVx (x : Reg)
  /-- `FX1E` ADD I, Vx (43 R241) -/
  | addI (x : Reg)
  /-- `FX29` LD F, Vx (43 R242) -/
  | ldF (x : Reg)
  /-- `FX33` LD B, Vx (43 R243) -/
  | ldB (x : Reg)
  /-- `FX55` LD [I], Vx (43 R244) -/
  | stRegs (x : Reg)
  /-- `FX65` LD Vx, [I] (43 R245) -/
  | ldRegs (x : Reg)
  deriving DecidableEq, Repr

end Sys2Proof
end

