-- ==== Sys2Proof/WellFormed.lean ====
section
/-! DEFINITION. Well-formedness of what the machine is given: instructions, parameters and program images. -/

namespace Sys2Proof

/-- Every instruction term is well formed: the operand types admit exactly the values of the fields, every register
number names a register, and the encoding has no illegal word (30 R102, R106). One arm a constructor, so that a new
constructor must be judged here (log 20). -/
def Instr.wellFormed : Instr → Bool
  | .cls => true
  | .ret => true
  | .jp _ => true
  | .call _ => true
  | .seImm _ _ => true
  | .sneImm _ _ => true
  | .seReg _ _ => true
  | .ldImm _ _ => true
  | .addImm _ _ => true
  | .ldReg _ _ => true
  | .orReg _ _ => true
  | .andReg _ _ => true
  | .xorReg _ _ => true
  | .addReg _ _ => true
  | .sub _ _ => true
  | .shr _ _ => true
  | .subn _ _ => true
  | .shl _ _ => true
  | .sneReg _ _ => true
  | .ldI _ => true
  | .jpV0 _ => true
  | .rnd _ _ => true
  | .drw _ _ _ => true
  | .skp _ => true
  | .sknp _ => true
  | .ldVxDt _ => true
  | .ldVxK _ => true
  | .ldDtVx _ => true
  | .ldStVx _ => true
  | .addI _ => true
  | .ldF _ => true
  | .ldB _ => true
  | .stRegs _ => true
  | .ldRegs _ => true

/-- Parameters a core can be built with: the program origin lies in memory, PC passes the end of memory by 2 without wrapping
(10 R35), and the screen is as wide as a sprite row and as tall as the tallest sprite, so that no sprite covers a cell twice
(44 R273; log 30). -/
def Params.ok (p : Params) : Bool :=
  decide (p.progOrigin ≤ p.memSize) && decide (p.memSize + 2 < 2 ^ Config.addrWidth) && decide (8 ≤ p.fbW) && decide (15 ≤ p.fbH)

/-- A program image `load` takes: at most `MAX_PROG_LEN` bytes; 0 bytes are accepted (70 R352, R353). -/
def Program.wellFormed (p : Params) (bytes : List Byte) : Bool := bytes.length ≤ p.maxProgLen

end Sys2Proof
end

