-- ==== Sys2Proof/Decode.lean ====
section
/-! DEFINITION. The decoder of 30 R107, total over the 65536 words, and the encoder, both from the patterns of 30 R104. -/

namespace Sys2Proof

/-- The decoder's answer for a word: one of the 34 instructions, or `UNKNOWN`, the no-op of 30 R105. -/
inductive Decoded where
  | instr (i : Instr)
  | unknown
  deriving DecidableEq, Repr

/-- The decoder's answer for bytes: an instruction, an `UNKNOWN` word, or a rejection by name because fewer than the two
bytes of an instruction are there (30 R100). -/
inductive DecodeResult where
  | instr (i : Instr) (rest : List Byte)
  | unknown (w : Word) (rest : List Byte)
  | tooShort
  deriving DecidableEq, Repr

/-- `op = w[15:12]` (30 R101). -/
def opField (w : Word) : BitVec 4 := w.extractLsb' 12 4
/-- `x = w[11:8]` (30 R101). -/
def xField (w : Word) : Reg := w.extractLsb' 8 4
/-- `y = w[7:4]` (30 R101). -/
def yField (w : Word) : Reg := w.extractLsb' 4 4
/-- `n = w[3:0]` (30 R101). -/
def nField (w : Word) : BitVec 4 := w.extractLsb' 0 4
/-- `kk = w[7:0]` (30 R101). -/
def kkField (w : Word) : Byte := w.extractLsb' 0 8
/-- `nnn = w[11:0]` (30 R101). -/
def nnnField (w : Word) : Addr12 := w.extractLsb' 0 12

/-- The `0x8` group, by its last nibble (30 R107). -/
def decodeAlu (x y : Reg) (n : BitVec 4) : Decoded :=
  match n with
  | 0x0#4 => .instr (.ldReg x y)
  | 0x1#4 => .instr (.orReg x y)
  | 0x2#4 => .instr (.andReg x y)
  | 0x3#4 => .instr (.xorReg x y)
  | 0x4#4 => .instr (.addReg x y)
  | 0x5#4 => .instr (.sub x y)
  | 0x6#4 => .instr (.shr x y)
  | 0x7#4 => .instr (.subn x y)
  | 0xE#4 => .instr (.shl x y)
  | _ => .unknown

/-- The `0xE` group, by its last byte (30 R107). -/
def decodeKey (x : Reg) (kk : Byte) : Decoded :=
  match kk with
  | 0x9E#8 => .instr (.skp x)
  | 0xA1#8 => .instr (.sknp x)
  | _ => .unknown

/-- The `0xF` group, by its last byte (30 R107). -/
def decodeMisc (x : Reg) (kk : Byte) : Decoded :=
  match kk with
  | 0x07#8 => .instr (.ldVxDt x)
  | 0x0A#8 => .instr (.ldVxK x)
  | 0x15#8 => .instr (.ldDtVx x)
  | 0x18#8 => .instr (.ldStVx x)
  | 0x1E#8 => .instr (.addI x)
  | 0x29#8 => .instr (.ldF x)
  | 0x33#8 => .instr (.ldB x)
  | 0x55#8 => .instr (.stRegs x)
  | 0x65#8 => .instr (.ldRegs x)
  | _ => .unknown

/-- The `0x0` group: two whole words, every other one unknown (30 R107). -/
def decodeZero (w : Word) : Decoded :=
  match w with
  | 0x00E0#16 => .instr .cls
  | 0x00EE#16 => .instr .ret
  | _ => .unknown

/-- A word of the `5XY_` or `9XY_` group counts only with a last nibble of 0 (30 R107, decision D12). -/
def decodeIfZero (n : BitVec 4) (i : Instr) : Decoded :=
  match n with
  | 0x0#4 => .instr i
  | _ => .unknown

/-- `decode(w)`, total over all words (30 R107). The last arm is `op = 0xF`. -/
def decodeWord (w : Word) : Decoded :=
  match opField w with
  | 0x0#4 => decodeZero w
  | 0x1#4 => .instr (.jp (nnnField w))
  | 0x2#4 => .instr (.call (nnnField w))
  | 0x3#4 => .instr (.seImm (xField w) (kkField w))
  | 0x4#4 => .instr (.sneImm (xField w) (kkField w))
  | 0x5#4 => decodeIfZero (nField w) (.seReg (xField w) (yField w))
  | 0x6#4 => .instr (.ldImm (xField w) (kkField w))
  | 0x7#4 => .instr (.addImm (xField w) (kkField w))
  | 0x8#4 => decodeAlu (xField w) (yField w) (nField w)
  | 0x9#4 => decodeIfZero (nField w) (.sneReg (xField w) (yField w))
  | 0xA#4 => .instr (.ldI (nnnField w))
  | 0xB#4 => .instr (.jpV0 (nnnField w))
  | 0xC#4 => .instr (.rnd (xField w) (kkField w))
  | 0xD#4 => .instr (.drw (xField w) (yField w) (nField w))
  | 0xE#4 => decodeKey (xField w) (kkField w)
  | _ => decodeMisc (xField w) (kkField w)

/-- `mem[PC] : mem[PC+1]`, the byte at the lower address in the more significant half (20 R74). -/
def wordOfBytes (hi lo : Byte) : Word := hi ++ lo

/-- The decoder on the bytes at a program counter, lowest address first (20 R74, 30 R100). -/
def decode : List Byte → DecodeResult
  | hi :: lo :: rest =>
    match decodeWord (wordOfBytes hi lo) with
    | .instr i => .instr i rest
    | .unknown => .unknown (wordOfBytes hi lo) rest
  | _ => .tooShort

/-- A word of the pattern `op nnn` (30 R101). -/
def encodeNnn (op : BitVec 4) (nnn : Addr12) : Word := op ++ nnn
/-- A word of the pattern `op x kk` (30 R101). -/
def encodeXkk (op : BitVec 4) (x : Reg) (kk : Byte) : Word := op ++ (x ++ kk)
/-- A word of the pattern `op x y n` (30 R101). -/
def encodeXyn (op : BitVec 4) (x y : Reg) (n : BitVec 4) : Word := op ++ (x ++ (y ++ n))

/-- The word of an instruction (30 R104). -/
def encode : Instr → Word
  | .cls => 0x00E0
  | .ret => 0x00EE
  | .jp nnn => encodeNnn 0x1 nnn
  | .call nnn => encodeNnn 0x2 nnn
  | .seImm x kk => encodeXkk 0x3 x kk
  | .sneImm x kk => encodeXkk 0x4 x kk
  | .seReg x y => encodeXyn 0x5 x y 0x0
  | .ldImm x kk => encodeXkk 0x6 x kk
  | .addImm x kk => encodeXkk 0x7 x kk
  | .ldReg x y => encodeXyn 0x8 x y 0x0
  | .orReg x y => encodeXyn 0x8 x y 0x1
  | .andReg x y => encodeXyn 0x8 x y 0x2
  | .xorReg x y => encodeXyn 0x8 x y 0x3
  | .addReg x y => encodeXyn 0x8 x y 0x4
  | .sub x y => encodeXyn 0x8 x y 0x5
  | .shr x y => encodeXyn 0x8 x y 0x6
  | .subn x y => encodeXyn 0x8 x y 0x7
  | .shl x y => encodeXyn 0x8 x y 0xE
  | .sneReg x y => encodeXyn 0x9 x y 0x0
  | .ldI nnn => encodeNnn 0xA nnn
  | .jpV0 nnn => encodeNnn 0xB nnn
  | .rnd x kk => encodeXkk 0xC x kk
  | .drw x y n => encodeXyn 0xD x y n
  | .skp x => encodeXkk 0xE x 0x9E
  | .sknp x => encodeXkk 0xE x 0xA1
  | .ldVxDt x => encodeXkk 0xF x 0x07
  | .ldVxK x => encodeXkk 0xF x 0x0A
  | .ldDtVx x => encodeXkk 0xF x 0x15
  | .ldStVx x => encodeXkk 0xF x 0x18
  | .addI x => encodeXkk 0xF x 0x1E
  | .ldF x => encodeXkk 0xF x 0x29
  | .ldB x => encodeXkk 0xF x 0x33
  | .stRegs x => encodeXkk 0xF x 0x55
  | .ldRegs x => encodeXkk 0xF x 0x65

/-- The more significant byte of a word, at the lower address (20 R74). -/
def hiByte (w : Word) : Byte := w.extractLsb' 8 8
/-- The less significant byte of a word, at the higher address (20 R74). -/
def loByte (w : Word) : Byte := w.extractLsb' 0 8

/-- A word as memory holds it, lowest address first (20 R74). -/
def bytesOfWord (w : Word) : List Byte := [hiByte w, loByte w]

/-- The 16-bit word whose low `nbits` bits are those of `w` and whose other bits are 0. -/
def tableWord (nbits w : Nat) : Word := BitVec.ofNat 16 (w % 2 ^ nbits)

/-- The instruction the decoder reads from the word `w` of the opcode table, laid out as memory holds it; none where the
word is `UNKNOWN`. -/
def decodeTableWord (nbits w : Nat) : Option Instr :=
  match decode (bytesOfWord (tableWord nbits w)) with
  | .instr i _ => some i
  | .unknown _ _ => none
  | .tooShort => none

end Sys2Proof
end

