-- ==== Sys2Proof/Machine/Params.lean ====
section
/-! DEFINITION. The values of the parameters of 00 R8: the unaudited literals, the decided defaults and the font bytes. -/

namespace Sys2Proof

/-- The conventional glyph bytes, five a glyph (10 R47, decision D18; log 10). -/
def Config.fontBytes : List Byte :=
  [0xF0, 0x90, 0x90, 0x90, 0xF0] ++ [0x20, 0x60, 0x20, 0x20, 0x70] ++
  [0xF0, 0x10, 0xF0, 0x80, 0xF0] ++ [0xF0, 0x10, 0xF0, 0x10, 0xF0] ++
  [0x90, 0x90, 0xF0, 0x10, 0x10] ++ [0xF0, 0x80, 0xF0, 0x10, 0xF0] ++
  [0xF0, 0x80, 0xF0, 0x90, 0xF0] ++ [0xF0, 0x10, 0x20, 0x40, 0x40] ++
  [0xF0, 0x90, 0xF0, 0x90, 0xF0] ++ [0xF0, 0x90, 0xF0, 0x10, 0xF0] ++
  [0xF0, 0x90, 0xF0, 0x90, 0x90] ++ [0xE0, 0x90, 0xE0, 0x90, 0xE0] ++
  [0xF0, 0x80, 0x80, 0x80, 0xF0] ++ [0xE0, 0x90, 0x90, 0x90, 0xE0] ++
  [0xF0, 0x80, 0xF0, 0x80, 0xF0] ++ [0xF0, 0x80, 0xF0, 0x80, 0x80]

/-- The default of `FONT` (10 R47, decision D18; log 10). -/
def Config.font : Font := ⟨⟨Config.fontBytes⟩, rfl⟩

/-- The spec's value of every parameter that is an argument of the model (00 R8; logs 9 to 13, 23, 30). -/
def Config.params : Params :=
  { memSize := 4096
    progOrigin := 0x200
    fbW := 64
    fbH := 32
    stackDepth := 48
    vfOrder := .flagLast
    shlPcAdvance := .two
    drwCoordCapture := .beforeClear
    fx1eVfThreshold := 0x0F00
    iReset := 0x0000
    font := Config.font }

end Sys2Proof
end

