-- ==== Sys2Proof/Machine/Memory.lean ====
section
/-! DEFINITION. The MEM_SIZE bytes of memory (20 R70): a list of cells in one canonical form, and its reads and writes. -/

namespace Sys2Proof.Machine

/-- The bytes of memory that differ from the reset contents, by rising address (20 R70; log 14). -/
abbrev Memory := List Host.Cell

variable (p : Params)

/-- What an unlisted address reads as: the contents after `initialize`, the parameter FONT at 0x000..0x04F and 0 elsewhere
(10 R46, R47, R57; 20 R78). -/
def Memory.unlisted (a : Nat) : Byte :=
  if Config.fontBase ≤ a then p.font[a - Config.fontBase]?.getD 0 else 0

/-- The byte at address `a` (20 R77). -/
def Memory.read : Memory → Nat → Byte
  | [], a => Memory.unlisted p a
  | (k, v) :: rest, a => if a = k then v else Memory.read rest a

/-- A cell in front of a list, unless an unlisted address reads as its byte already. -/
def Memory.consCell (a : Nat) (b : Byte) (rest : Memory) : Memory :=
  if b = Memory.unlisted p a then rest else (a, b) :: rest

/-- The byte `b` stored at address `a` (20 R73), keeping the canonical form. -/
def Memory.write : Memory → Nat → Byte → Memory
  | [], a, b => Memory.consCell p a b []
  | (k, v) :: rest, a, b =>
    if a < k then Memory.consCell p a b ((k, v) :: rest)
    else if a = k then Memory.consCell p a b rest
    else (k, v) :: Memory.write rest a b

/-- Bytes stored at `a`, `a + 1`, … in ascending order (43 R243, R244; 70 R352). -/
def Memory.writeBytes (m : Memory) (a : Nat) : List Byte → Memory
  | [] => m
  | b :: bs => Memory.writeBytes (m.write p a b) (a + 1) bs

/-- The `n` bytes at `a`, `a + 1`, … in ascending order (44 R271, 43 R245). -/
def Memory.readBytes (m : Memory) (a : Nat) : Nat → List Byte
  | 0 => []
  | n + 1 => m.read p a :: Memory.readBytes m (a + 1) n

/-- Every listed address is at least `lo` and inside memory, addresses strictly rise, and no cell holds what its address
reads as unlisted. -/
def Memory.wfFrom : Nat → Memory → Bool
  | _, [] => true
  | lo, (k, v) :: rest =>
    decide (lo ≤ k) && decide (k < p.memSize) && decide (v ≠ Memory.unlisted p k) && Memory.wfFrom (k + 1) rest

/-- The canonical form of memory (log 14). -/
def Memory.wf (m : Memory) : Bool := Memory.wfFrom p 0 m

/-- The lowest address at or above `MEM_SIZE` among the `count` addresses from `base`, if there is one: the `info` of a
bounds fault (20 R71, R72; 60 R321). Addresses are natural numbers, never reduced (decision D3). -/
def firstOutside (memSize base count : Nat) : Option Nat :=
  if count = 0 then none
  else if base + count ≤ memSize then none
  else some (max base memSize)

end Sys2Proof.Machine
end

