-- ==== Sys2Proof/Machine/State.lean ====
section
/-! DEFINITION. The state of the core as plain data (10_state.md), the host's pending calls, the reasons a step can stop, and
the state after `initialize`. -/

namespace Sys2Proof.Machine

/-- Why a step stops without a next state. The faults the spec gives the core (60 R321) are no constructors of this type:
they are taken, as `State.raise`, and leave a next state. -/
inductive Fault where
  /-- Raised by `tick` when the fault register is set: a faulted core has no tick step until `initialize`
  (40 R152, 60 R324). Safe: no claim passes it. -/
  | halted
  /-- Raised by `tick` in phase INIT: no `load` yet, a host that breaks its duty (40 R141, 60 R334). Safe: no claim
  passes it. -/
  | tickInInit
  /-- Raised by the host's `load` in phase RUN: a host that breaks its duty (60 R334, 70 R354). Safe: no claim passes it. -/
  | loadInRun
  deriving DecidableEq, Repr

/-- Why an instruction has no meaning. -/
inductive Refusal where
  /-- Raised by an arm of `exec` for an instruction not modelled yet, by its mnemonic; no arm raises it now. Safe. -/
  | notModelled (mnemonic : String)
  deriving DecidableEq, Repr

/-- The six fault causes of 60 R321. -/
inductive FaultCause where
  | stackOverflow
  | stackUnderflow
  | fetchBounds
  | readBounds
  | writeBounds
  | keyIndex
  deriving DecidableEq, Repr

/-- The fault record (10 R48): `info` is the faulting address, key index or SP, a natural number. -/
structure FaultRecord where
  cause : FaultCause
  pc : Addr
  word : Word
  info : Nat
  deriving DecidableEq, Repr

/-- The lifecycle phase (10 R49). -/
inductive Phase where
  | init
  | run
  deriving DecidableEq, Repr

/-- The input of one tick (40 R140): the 16 key levels and the random byte. -/
structure TickInput where
  keys : Keypad
  rnd : Byte
  deriving DecidableEq, Repr

/-- A call of the host (40 R140, 60 R334). -/
inductive HostOp where
  /-- `initialize()` (70 R350) -/
  | initCore
  /-- `load(bytes)` (70 R352) -/
  | load (bytes : List Byte)
  /-- `tick(keys_in, rnd_in)` (40 R153) -/
  | tick (inp : TickInput)
  deriving DecidableEq, Repr

/-- What the last `load` answered the host (70 R352, R353). -/
inductive HostReply where
  | none
  | loaded
  | loadTooLarge
  deriving DecidableEq, Repr

/-- The framebuffer: its rows, top row first, each its pixels, leftmost first, true = on (10 R43; log 30). -/
abbrev Framebuffer := List (List Bool)

/-- All the state the spec gives the core (10 R30 to R49), then the model's own fields. -/
structure State where
  /-- `V[0..15]` (10 R30) -/
  v : Vector Byte Config.numV
  /-- `PC` (10 R33) -/
  pc : Addr
  /-- `I` (10 R36) -/
  i : Addr
  /-- `SP`, the next free slot; its bound 0 ≤ SP ≤ STACK_DEPTH is `State.StackOk` (10 R37; log 29) -/
  sp : Nat
  /-- `STACK`, STACK_DEPTH slots, slot 0 first (10 R37); their number is `State.StackOk` (log 29) -/
  stack : List Addr
  /-- `DT` (10 R39) -/
  dt : Timer
  /-- `ST` (10 R40) -/
  st : Timer
  /-- `key_wait` (10 R41) -/
  keyWait : Bool
  /-- `wait_reg` (10 R41) -/
  waitReg : Reg
  /-- `KEYS[0..15]` (10 R42) -/
  keys : Keypad
  /-- `FB[r][c]`, FB_H rows of FB_W pixels (10 R43); their number is `State.fbOk` (log 30) -/
  fb : Framebuffer
  /-- `changed` (10 R44) -/
  changed : Bool
  /-- `mem`, MEM_SIZE bytes (10 R45) -/
  mem : Memory
  /-- `fault` (10 R48) -/
  fault : Option FaultRecord
  /-- `phase` (10 R49) -/
  phase : Phase
  /-- The model's own: the current tick's `rnd_in` (40 R140; log 4). -/
  rndIn : Byte
  /-- The model's own: the host's pending calls, oldest first (log 1). -/
  host : List HostOp
  /-- The model's own: how many ticks have taken free inputs (log 3). -/
  draws : Nat
  /-- The model's own: the answer to the last `load` (log 8). -/
  reply : HostReply
  /-- The model's own: the parameters, which no step changes (00 R8; log 9). -/
  cfg : Params
  deriving DecidableEq, Repr

/-- The framebuffer with every pixel off (10 R57, 44 R270). -/
def blankFb (p : Params) : Framebuffer := List.replicate p.fbH (List.replicate p.fbW false)

/-- The state after `initialize` (10 R57). Memory lists nothing: an unlisted address reads as the reset contents. -/
def State.reset : State :=
  { v := Vector.replicate Config.numV 0
    pc := BitVec.ofNat Config.addrWidth Config.params.progOrigin
    i := Config.params.iReset
    sp := 0
    stack := List.replicate Config.params.stackDepth 0
    dt := 0
    st := 0
    keyWait := false
    waitReg := 0
    keys := Vector.replicate Config.numKeys false
    fb := blankFb Config.params
    changed := false
    mem := []
    fault := none
    phase := .init
    rndIn := 0
    host := []
    draws := 0
    reply := .none
    cfg := Config.params }

end Sys2Proof.Machine
end

