-- ==== Sys2Proof/Machine/Operands.lean ====
section
/-! DEFINITION. The operand forms: general registers, I, the effective address I + k, the PC advances, the call stack, the
framebuffer cells (00 R11; 30 R102; 43 R246). -/

namespace Sys2Proof.Machine

/-- `V[x]` (10 R30). -/
def State.getV (s : State) (x : Reg) : Byte := s.v[x.toNat]'(x.isLt)

/-- `V[x] <- b` (10 R30). -/
def State.setV (s : State) (x : Reg) (b : Byte) : State := { s with v := s.v.set x.toNat b x.isLt }

/-- `PC <- target` (00 R11, 10 R34). -/
def State.setPc (s : State) (target : Addr) : State := { s with pc := target }

/-- The default `PC <- PC + 2` (40 R148). -/
def State.advance (s : State) : State := s.setPc (s.pc + 2)

/-- A skip: `PC <- PC + 4` if the condition holds, else `PC <- PC + 2` (41 R173, R180). -/
def State.skipIf (s : State) (c : Bool) : State := s.setPc (if c then s.pc + 4 else s.pc + 2)

/-- `I <- a` (10 R36). -/
def State.setI (s : State) (a : Addr) : State := { s with i := a }

/-- The effective address `I + k`, an unbounded natural number (43 R246, 20 R71). -/
def State.effAddr (s : State) (k : Nat) : Nat := s.i.toNat + k

/-- Writes at the stack pointer, then increments it (10 R38). The caller has excluded a full stack. -/
def State.push (s : State) (ret : Addr) : State := { s with stack := s.stack.set s.sp ret, sp := s.sp + 1 }

/-- The slot below the stack pointer, which a pop reads (10 R38). The caller has excluded an empty stack; the 0 of a slot that is
not there is met in no state with `State.StackOk` (log 28). -/
def State.top (s : State) : Addr := s.stack.getD (s.sp - 1) 0

/-- Decrements the stack pointer; the slot keeps its value (10 R38). -/
def State.pop (s : State) : State := { s with sp := s.sp - 1 }

/-- `mem[a]` (10 R45, 20 R77). -/
def State.readByte (s : State) (a : Nat) : Byte := s.mem.read s.cfg a

/-- `mem[a]`, `mem[a+1]`, …, `n` bytes. The caller has checked the bounds (20 R72). -/
def State.readBytes (s : State) (a n : Nat) : List Byte := s.mem.readBytes s.cfg a n

/-- Stores bytes from address `a` on (20 R73). The caller has checked the bounds. -/
def State.storeBytes (s : State) (a : Nat) (bs : List Byte) : State :=
  { s with mem := s.mem.writeBytes s.cfg a bs }

/-- Memory is in its canonical form (log 14). -/
def State.memOk (s : State) : Bool := s.mem.wf s.cfg

/-- `V[0] .. V[x]` in ascending order (43 R244). -/
def State.lowRegs (s : State) (x : Reg) : List Byte :=
  (List.range (x.toNat + 1)).map fun k => s.getV (BitVec.ofNat 4 k)

/-- `V[k] <- b0; V[k+1] <- b1; …` in ascending order (43 R245). -/
def State.loadRegsFrom (s : State) (k : Nat) : List Byte → State
  | [] => s
  | b :: bs => State.loadRegsFrom (s.setV (BitVec.ofNat 4 k) b) (k + 1) bs

/-- `KEYS[k] = 1`; a key index above 15 is excluded by the caller (45 R301). -/
def State.keyPressed (s : State) (k : Byte) : Bool := s.keys[k.toNat]?.getD false

/-- `FB[r][c]` (10 R43). A cell that is not on the screen reads as off; no instruction reads one (log 28). -/
def pixel (fb : Framebuffer) (r c : Nat) : Bool := (fb.getD r []).getD c false

/-- `FB[r][c] <- b` (10 R43). A cell that is not on the screen takes no write; no instruction writes one (log 28). -/
def putPixel (fb : Framebuffer) (r c : Nat) (b : Bool) : Framebuffer := fb.set r ((fb.getD r []).set c b)

/-- `dest_y = (Vy + row) mod FB_H` (44 R273). -/
def destRow (p : Params) (y row : Nat) : Nat := (y + row) % p.fbH

/-- `dest_x = (Vx + col) mod FB_W` (44 R273). -/
def destCol (p : Params) (x col : Nat) : Nat := (x + col) % p.fbW

/-- FB_H rows of FB_W cells (10 R43). -/
def fbShaped (p : Params) (fb : Framebuffer) : Bool := fb.length == p.fbH && fb.all fun row => row.length == p.fbW

/-- The framebuffer has the shape of the screen (10 R43; log 30). -/
def State.fbOk (s : State) : Bool := fbShaped s.cfg s.fb

end Sys2Proof.Machine
end

