-- ==== Sys2Proof/Machine/Flags.lean ====
section
/-! DEFINITION. Every value VF takes as a flag (10 R50) and the order of a result write and a flag write (42 R201). -/

namespace Sys2Proof.Machine

/-- `bool(c)` as a byte (00 R10). -/
def flagByte (c : Bool) : Byte := if c then 1 else 0

/-- Carry of an 8-bit addition: the unbounded sum exceeds 0xFF (42 R200). -/
def carryOut (a b : Byte) : Bool := decide (a.toNat + b.toNat > 0xFF)

/-- The sum reduced to 8 bits (42 R200). -/
def sumByte (a b : Byte) : Byte := BitVec.ofNat 8 (a.toNat + b.toNat)

/-- The flag of `a - b`: the minuend is strictly greater (42 R200, R211). -/
def strictlyGreater (a b : Byte) : Bool := decide (a.toNat > b.toNat)

/-- The bit a right shift moves out (42 R212). -/
def shiftedOutRight (a : Byte) : Bool := a.getLsbD 0

/-- The bit a left shift moves out (42 R214). -/
def shiftedOutLeft (a : Byte) : Bool := a.getLsbD 7

/-- The flag of FX1E: the new I exceeds the threshold, strictly (43 R241). -/
def indexFlag (threshold newI : Addr) : Bool := decide (newI.toNat > threshold.toNat)

/-- `VF <- bool(c)` (10 R50). -/
def State.setFlag (s : State) (c : Bool) : State := s.setV vfReg (flagByte c)

/-- `WriteResultAndFlag(x, res, flag)`, in the order `VF_ORDER` names (42 R201). -/
def State.writeResultAndFlag (s : State) (x : Reg) (res : Byte) (flag : Bool) : State :=
  match s.cfg.vfOrder with
  | .flagLast => (s.setV x res).setFlag flag
  | .resultLast => (s.setFlag flag).setV x res

end Sys2Proof.Machine
end

