-- ==== Sys2Proof/Machine/Ops.lean ====
section
/-! DEFINITION. The named operations: taking a fault, fetching, the start of a tick, the key-wait scan, the host's
`initialize` and `load`, the snapshot. -/

namespace Sys2Proof.Machine

/-- The numeric code of a fault cause (60 R321). -/
def FaultCause.code : FaultCause → Nat
  | .stackOverflow => 1
  | .stackUnderflow => 2
  | .fetchBounds => 3
  | .readBounds => 4
  | .writeBounds => 5
  | .keyIndex => 6

/-- Fault entry, the one shared operation that takes an exception (60 R322, 00 R13): latch the record with the PC of the
faulting instruction; nothing else changes. The caller has made no write before it. There is no return from a fault: only
`initialize` clears it (60 R324), see `State.initCore`. -/
def State.raise (s : State) (cause : FaultCause) (word : Word) (info : Nat) : State :=
  { s with fault := some { cause := cause, pc := s.pc, word := word, info := info } }

/-- The answer of a fetch: the word at PC, or the lowest address outside memory. -/
inductive Fetched where
  | word (w : Word)
  | outside (a : Nat)
  deriving DecidableEq, Repr

/-- `w <- MemRead(PC, 2)` (20 R74, 40 R146). -/
def State.fetch (s : State) : Fetched :=
  match firstOutside s.cfg.memSize s.pc.toNat 2 with
  | some a => .outside a
  | none => .word (wordOfBytes (s.readByte s.pc.toNat) (s.readByte (s.pc.toNat + 1)))

/-- What every tick does first: copy the keypad, clear `changed` (40 R142, R143); and latch the random byte for the
instruction (log 4). -/
def State.beginTick (s : State) (inp : TickInput) : State :=
  { s with keys := inp.keys, rndIn := inp.rnd, changed := false }

/-- A timer one executing tick later: down by 1 while non-zero (10 R39, 45 R307). -/
def countDown (t : Timer) : Timer := if t.toNat > 0 then t - 1 else t

/-- The timer decrements of an executing tick (40 R145). -/
def State.decTimers (s : State) : State := { s with dt := countDown s.dt, st := countDown s.st }

/-- The lowest-numbered pressed key (40 R144). -/
def firstPressed (keys : Keypad) : Option Nat :=
  (List.range Config.numKeys).find? fun k => keys[k]?.getD false

/-- The key-wait scan of a waiting tick (40 R144): the lowest pressed key goes to `V[wait_reg]` and ends the wait. -/
def State.scanKeys (s : State) : State :=
  match firstPressed s.keys with
  | some k => { s.setV s.waitReg (BitVec.ofNat 8 k) with keyWait := false }
  | none => s

/-- `initialize()` (70 R350): every element of the spec's state at its reset value; the model's own parameters, pending
host calls and draw counter stay (logs 1, 3, 9). -/
def State.initCore (s : State) : State :=
  { State.reset with
    pc := BitVec.ofNat Config.addrWidth s.cfg.progOrigin
    i := s.cfg.iReset
    stack := List.replicate s.cfg.stackDepth 0
    fb := blankFb s.cfg
    cfg := s.cfg
    host := s.host
    draws := s.draws }

/-- An accepted `load(bytes)` (70 R352). -/
def State.loadImage (s : State) (bytes : List Byte) : State :=
  { s.storeBytes s.cfg.progOrigin bytes with phase := .run, reply := .loaded }

/-- `load(bytes)` in phase INIT: too long an image is rejected with LOAD_TOO_LARGE, no byte written (70 R352, R353). -/
def State.load (s : State) (bytes : List Byte) : State :=
  if Program.wellFormed s.cfg bytes then s.loadImage bytes else { s with reply := .loadTooLarge }

/-- `beep_out = bool(ST > 0)` (10 R40). -/
def State.beep (s : State) : Bool := decide (s.st.toNat > 0)

/-- What a tick returns to the host (40 R150). -/
structure Snapshot where
  fbOut : Framebuffer
  changedOut : Bool
  beepOut : Bool
  faultOut : Option FaultRecord
  deriving DecidableEq, Repr

/-- The snapshot, taken from the state at the end of the tick (40 R150, decision D15). -/
def State.snapshot (s : State) : Snapshot :=
  { fbOut := s.fb, changedOut := s.changed, beepOut := s.beep, faultOut := s.fault }

end Sys2Proof.Machine
end

