-- ==== Sys2Proof/Machine/Alu.lean ====
section
/-! DEFINITION. Register loads and the 8-bit ALU (42_alu.md). Every operand is read from the state before the writes
(00 R14). -/

namespace Sys2Proof.Machine

/-- `6XKK` LD Vx, kk (42 R202). -/
def execLdImm (x : Reg) (kk : Byte) (s : State) : Host.Outcome State Fault Refusal :=
  .next (s.setV x kk).advance

/-- `7XKK` ADD Vx, kk, which writes VF (42 R203). -/
def execAddImm (x : Reg) (kk : Byte) (s : State) : Host.Outcome State Fault Refusal :=
  .next (s.writeResultAndFlag x (sumByte (s.getV x) kk) (carryOut (s.getV x) kk)).advance

/-- `8XY0` LD Vx, Vy (42 R204). -/
def execLdReg (x y : Reg) (s : State) : Host.Outcome State Fault Refusal :=
  .next (s.setV x (s.getV y)).advance

/-- `8XY1` OR Vx, Vy (42 R205). -/
def execOrReg (x y : Reg) (s : State) : Host.Outcome State Fault Refusal :=
  .next (s.setV x (s.getV x ||| s.getV y)).advance

/-- `8XY2` AND Vx, Vy (42 R206). -/
def execAndReg (x y : Reg) (s : State) : Host.Outcome State Fault Refusal :=
  .next (s.setV x (s.getV x &&& s.getV y)).advance

/-- `8XY3` XOR Vx, Vy (42 R207). -/
def execXorReg (x y : Reg) (s : State) : Host.Outcome State Fault Refusal :=
  .next (s.setV x (s.getV x ^^^ s.getV y)).advance

/-- `8XY4` ADD Vx, Vy (42 R210). -/
def execAddReg (x y : Reg) (s : State) : Host.Outcome State Fault Refusal :=
  .next (s.writeResultAndFlag x (sumByte (s.getV x) (s.getV y)) (carryOut (s.getV x) (s.getV y))).advance

/-- `8XY5` SUB Vx, Vy (42 R211). -/
def execSub (x y : Reg) (s : State) : Host.Outcome State Fault Refusal :=
  .next (s.writeResultAndFlag x (s.getV x - s.getV y) (strictlyGreater (s.getV x) (s.getV y))).advance

/-- `8XY6` SHR Vx; `y` is ignored (42 R212). -/
def execShr (x _y : Reg) (s : State) : Host.Outcome State Fault Refusal :=
  .next (s.writeResultAndFlag x (s.getV x >>> 1) (shiftedOutRight (s.getV x))).advance

/-- `8XY7` SUBN Vx, Vy (42 R213). -/
def execSubn (x y : Reg) (s : State) : Host.Outcome State Fault Refusal :=
  .next (s.writeResultAndFlag x (s.getV y - s.getV x) (strictlyGreater (s.getV y) (s.getV x))).advance

/-- `SHL_PC_ADVANCE` as a number of bytes (42 R214). -/
def shlAdvance : ShlPcAdvance → Addr
  | .two => 2
  | .zero => 0

/-- `8XYE` SHL Vx; `y` is ignored; PC advances by `SHL_PC_ADVANCE` (42 R214). -/
def execShl (x _y : Reg) (s : State) : Host.Outcome State Fault Refusal :=
  .next ((s.writeResultAndFlag x (s.getV x <<< 1) (shiftedOutLeft (s.getV x))).setPc (s.pc + shlAdvance s.cfg.shlPcAdvance))

end Sys2Proof.Machine
end

