-- ==== Sys2Proof/Machine/Control.lean ====
section
/-! DEFINITION. Control transfer (41_control_flow.md): return, jumps, call, skips; and the no-op UNKNOWN (40 R149). -/

namespace Sys2Proof.Machine

/-- `00EE` RET (41 R170). -/
def execRet (s : State) : Host.Outcome State Fault Refusal :=
  if s.sp = 0 then .next (s.raise .stackUnderflow (encode .ret) 0)
  else .next (s.pop.setPc s.top)

/-- `1NNN` JP nnn (41 R171). -/
def execJp (nnn : Addr12) (s : State) : Host.Outcome State Fault Refusal :=
  .next (s.setPc (zext16 nnn))

/-- `2NNN` CALL nnn (41 R172). SP never exceeds STACK_DEPTH (10 R37, `State.StackOk`). -/
def execCall (nnn : Addr12) (s : State) : Host.Outcome State Fault Refusal :=
  if s.cfg.stackDepth ≤ s.sp then .next (s.raise .stackOverflow (encode (.call nnn)) s.sp)
  else .next ((s.push (s.pc + 2)).setPc (zext16 nnn))

/-- `3XKK` SE Vx, kk (41 R173). -/
def execSeImm (x : Reg) (kk : Byte) (s : State) : Host.Outcome State Fault Refusal :=
  .next (s.skipIf (s.getV x == kk))

/-- `4XKK` SNE Vx, kk (41 R174). -/
def execSneImm (x : Reg) (kk : Byte) (s : State) : Host.Outcome State Fault Refusal :=
  .next (s.skipIf (s.getV x != kk))

/-- `5XY0` SE Vx, Vy (41 R175). -/
def execSeReg (x y : Reg) (s : State) : Host.Outcome State Fault Refusal :=
  .next (s.skipIf (s.getV x == s.getV y))

/-- `9XY0` SNE Vx, Vy (41 R176). -/
def execSneReg (x y : Reg) (s : State) : Host.Outcome State Fault Refusal :=
  .next (s.skipIf (s.getV x != s.getV y))

/-- `BNNN` JP V0, nnn (41 R177). -/
def execJpV0 (nnn : Addr12) (s : State) : Host.Outcome State Fault Refusal :=
  .next (s.setPc (zext16 (s.getV 0) + zext16 nnn))

/-- `UNKNOWN`: a no-op that advances PC by 2 (40 R149). It is no instruction of the table, so `tick` calls it, not `exec`. -/
def execUnknown (s : State) : Host.Outcome State Fault Refusal := .next s.advance

end Sys2Proof.Machine
end

