-- ==== Sys2Proof/Machine/Display.lean ====
section
/-! DEFINITION. Clear screen and sprite draw (44_display.md). -/

namespace Sys2Proof.Machine

/-- `00E0` CLS (44 R270). -/
def execCls (s : State) : Host.Outcome State Fault Refusal :=
  .next ({ s with fb := blankFb s.cfg, changed := true } : State).advance

/-- The framebuffer and the collision bit while a sprite is drawn (44 R271). -/
structure Canvas where
  fb : Framebuffer
  coll : Bool
  deriving DecidableEq, Repr

/-- One sprite bit that is 1: a cell that was on is a collision, and the cell is inverted (44 R271). -/
def drawPixel (cv : Canvas) (r c : Nat) : Canvas :=
  { fb := putPixel cv.fb r c (pixel cv.fb r c ^^ true), coll := cv.coll || pixel cv.fb r c }

/-- Column `col` of the sprite byte `b` is its bit `7 - col` (44 R272). -/
def spriteBit (b : Byte) (col : Nat) : Bool := b.getLsbD (7 - col)

/-- One column of the sprite row `r`; a 0 bit leaves its cell unchanged (44 R271). -/
def drawCol (p : Params) (x y r : Nat) (b : Byte) (cv : Canvas) (col : Nat) : Canvas :=
  if spriteBit b col then drawPixel cv (destRow p y r) (destCol p x col) else cv

/-- One row of the sprite, columns 0 to 7 (44 R271). -/
def drawRow (p : Params) (x y r : Nat) (b : Byte) (cv : Canvas) : Canvas :=
  (List.range 8).foldl (drawCol p x y r b) cv

/-- The rows of the sprite from row `r` on, in ascending order (44 R271). -/
def drawRows (p : Params) (x y : Nat) : Nat → List Byte → Canvas → Canvas
  | _, [], cv => cv
  | r, b :: bs, cv => drawRows p x y (r + 1) bs (drawRow p x y r b cv)

/-- The state whose `V[x]`, `V[y]` are the sprite's coordinates: before or after VF is cleared (44 R271, decision D7). -/
def State.coordState (s : State) : State :=
  match s.cfg.drwCoordCapture with
  | .beforeClear => s
  | .afterClear => s.setFlag false

/-- The framebuffer and collision after the sprite at I is drawn at `(V[x], V[y])` (44 R271). -/
def State.drawSprite (s : State) (x y : Reg) (n : Nat) : Canvas :=
  drawRows s.cfg (s.coordState.getV x).toNat (s.coordState.getV y).toNat 0 (s.readBytes (s.effAddr 0) n)
    { fb := s.fb, coll := false }

/-- What a finished draw leaves: the framebuffer, VF, `changed` (44 R271). -/
def State.putCanvas (s : State) (cv : Canvas) : State :=
  ({ s with fb := cv.fb, changed := true } : State).setFlag cv.coll

/-- `DXYN` DRW Vx, Vy, n (44 R271). -/
def execDrw (x y : Reg) (n : BitVec 4) (s : State) : Host.Outcome State Fault Refusal :=
  match firstOutside s.cfg.memSize (s.effAddr 0) n.toNat with
  | some a => .next (s.raise .readBounds (encode (.drw x y n)) a)
  | none => .next (s.putCanvas (s.drawSprite x y n.toNat)).advance

end Sys2Proof.Machine
end

