-- ==== Sys2Proof/Machine/Index.lean ====
section
/-! DEFINITION. The index register, BCD and the register-block transfer (43_index_memory.md). -/

namespace Sys2Proof.Machine

/-- `ANNN` LD I, nnn (43 R240). -/
def execLdI (nnn : Addr12) (s : State) : Host.Outcome State Fault Refusal :=
  .next (s.setI (zext16 nnn)).advance

/-- `FX1E` ADD I, Vx: I wraps modulo 2^16 and VF says whether the new I exceeds the threshold (43 R241). -/
def execAddI (x : Reg) (s : State) : Host.Outcome State Fault Refusal :=
  .next ((s.setI (s.i + zext16 (s.getV x))).setFlag (indexFlag s.cfg.fx1eVfThreshold (s.i + zext16 (s.getV x)))).advance

/-- `FX29` LD F, Vx: no masking of Vx (43 R242). -/
def execLdF (x : Reg) (s : State) : Host.Outcome State Fault Refusal :=
  .next (s.setI (BitVec.ofNat Config.addrWidth (Config.fontBase + (s.getV x).toNat * Config.glyphBytes))).advance

/-- The hundreds, tens and units of a byte (43 R243). -/
def bcdDigits (v : Byte) : List Byte :=
  [BitVec.ofNat 8 (v.toNat / 100), BitVec.ofNat 8 (v.toNat / 10 % 10), BitVec.ofNat 8 (v.toNat % 10)]

/-- `FX33` LD B, Vx: three bytes at I (43 R243). -/
def execLdB (x : Reg) (s : State) : Host.Outcome State Fault Refusal :=
  match firstOutside s.cfg.memSize (s.effAddr 0) 3 with
  | some a => .next (s.raise .writeBounds (encode (.ldB x)) a)
  | none => .next (s.storeBytes (s.effAddr 0) (bcdDigits (s.getV x))).advance

/-- `FX55` LD [I], Vx: `V[0] .. V[x]` to memory at I (43 R244). -/
def execStRegs (x : Reg) (s : State) : Host.Outcome State Fault Refusal :=
  match firstOutside s.cfg.memSize (s.effAddr 0) (x.toNat + 1) with
  | some a => .next (s.raise .writeBounds (encode (.stRegs x)) a)
  | none => .next (s.storeBytes (s.effAddr 0) (s.lowRegs x)).advance

/-- `FX65` LD Vx, [I]: `V[0] .. V[x]` from memory at I (43 R245). -/
def execLdRegs (x : Reg) (s : State) : Host.Outcome State Fault Refusal :=
  match firstOutside s.cfg.memSize (s.effAddr 0) (x.toNat + 1) with
  | some a => .next (s.raise .readBounds (encode (.ldRegs x)) a)
  | none => .next (s.loadRegsFrom 0 (s.readBytes (s.effAddr 0) (x.toNat + 1))).advance

end Sys2Proof.Machine
end

