-- ==== Sys2Proof/Machine/Input.lean ====
section
/-! DEFINITION. Random, keypad and timer instructions (45_timers_keys_random.md). -/

namespace Sys2Proof.Machine

/-- `CXKK` RND Vx, kk: the tick's random byte, masked (45 R300). -/
def execRnd (x : Reg) (kk : Byte) (s : State) : Host.Outcome State Fault Refusal :=
  .next (s.setV x (s.rndIn &&& kk)).advance

/-- `EX9E` SKP Vx (45 R301). -/
def execSkp (x : Reg) (s : State) : Host.Outcome State Fault Refusal :=
  if (s.getV x).toNat > 0xF then .next (s.raise .keyIndex (encode (.skp x)) (s.getV x).toNat)
  else .next (s.skipIf (s.keyPressed (s.getV x)))

/-- `EXA1` SKNP Vx (45 R302). -/
def execSknp (x : Reg) (s : State) : Host.Outcome State Fault Refusal :=
  if (s.getV x).toNat > 0xF then .next (s.raise .keyIndex (encode (.sknp x)) (s.getV x).toNat)
  else .next (s.skipIf (!s.keyPressed (s.getV x)))

/-- `FX07` LD Vx, DT (45 R303). -/
def execLdVxDt (x : Reg) (s : State) : Host.Outcome State Fault Refusal :=
  .next (s.setV x s.dt).advance

/-- `FX0A` LD Vx, K: the wait begins; a later waiting tick delivers the key (45 R304). -/
def execLdVxK (x : Reg) (s : State) : Host.Outcome State Fault Refusal :=
  .next ({ s with keyWait := true, waitReg := x } : State).advance

/-- `FX15` LD DT, Vx (45 R305). -/
def execLdDtVx (x : Reg) (s : State) : Host.Outcome State Fault Refusal :=
  .next ({ s with dt := s.getV x } : State).advance

/-- `FX18` LD ST, Vx (45 R306). -/
def execLdStVx (x : Reg) (s : State) : Host.Outcome State Fault Refusal :=
  .next ({ s with st := s.getV x } : State).advance

end Sys2Proof.Machine
end

