-- ==== Sys2Proof/Machine/Tick.lean ====
section
/-! DEFINITION. The tick (40_dispatch.md) and the host's calls (60 R334, 70_reset_and_hazards.md). -/

namespace Sys2Proof.Machine

/-- `execute(decode(w))`: exactly one instruction rule, or `UNKNOWN` (40 R147). -/
def execWord (w : Word) (s : State) : Host.Outcome State Fault Refusal :=
  match decodeWord w with
  | .instr i => exec i s
  | .unknown => execUnknown s

/-- Fetch and execute: a fetch outside memory takes FETCH_BOUNDS with word 0 (40 R146). -/
def fetchExec (s : State) : Host.Outcome State Fault Refusal :=
  match s.fetch with
  | .outside a => .next (s.raise .fetchBounds 0 a)
  | .word w => execWord w s

/-- The tick after its first two lines: a waiting tick scans the keys, an executing tick decrements the timers, then
fetches and executes (40 R144, R145). -/
def tickBody (s : State) : Host.Outcome State Fault Refusal :=
  if s.keyWait then .next s.scanKeys else fetchExec s.decTimers

/-- `Tick(keys_in, rnd_in)` (40 R153); no step in phase INIT or after a fault (40 R141, R152). -/
def tick (inp : TickInput) (s : State) : Host.Outcome State Fault Refusal :=
  match s.phase, s.fault with
  | .init, _ => .fault .tickInInit
  | .run, some _ => .fault .halted
  | .run, none => tickBody (s.beginTick inp)

/-- One call of the host (60 R334): `load` has no step in phase RUN (70 R354). -/
def hostCall (op : HostOp) (s : State) : Host.Outcome State Fault Refusal :=
  match op with
  | .initCore => .next s.initCore
  | .load bytes =>
    match s.phase with
    | .init => .next (s.load bytes)
    | .run => .fault .loadInRun
  | .tick inp => tick inp s

/-- The input of the n-th tick that no pending host call supplies: two free values (log 2). -/
def freeInput (n : Nat) : TickInput := { keys := Config.keysIn n, rnd := Config.rndIn n }

/-- The host's next move: its oldest pending call, or with none pending a tick with free inputs (log 1). -/
def hostMove (s : State) : Host.Outcome State Fault Refusal :=
  match s.host with
  | op :: rest => hostCall op { s with host := rest }
  | [] => tick (freeInput s.draws) { s with draws := s.draws + 1 }

/-- Pending host calls after which the next move is a tick: those there are if the oldest is a tick, else none. -/
def ticksOnly : List HostOp → List HostOp
  | .tick inp :: rest => .tick inp :: rest
  | _ => []

/-- PC if a word can be fetched there, else `PROG_ORIGIN`. -/
def State.fetchablePc (s : State) : Addr :=
  match firstOutside s.cfg.memSize s.pc.toNat 2 with
  | none => s.pc
  | some _ => BitVec.ofNat Config.addrWidth s.cfg.progOrigin

/-- The word `w` placed where the next tick fetches, and what that tick needs to fetch it: phase RUN, no fault, no
key-wait, a tick as the host's next move (log 5). It stands for the load of a program. -/
def State.placeWord (s : State) (w : Word) : State :=
  { s.storeBytes s.fetchablePc.toNat (bytesOfWord w) with
    pc := s.fetchablePc
    phase := .run
    fault := none
    keyWait := false
    host := ticksOnly s.host }

end Sys2Proof.Machine
end

