-- ==== Sys2Proof/Machine/Step.lean ====
section
/-! DEFINITION. One step of the core: the host's next move (log 1). -/

namespace Sys2Proof.Machine

/-- One step (00 R4): the host's oldest pending call, or a tick with free inputs. -/
def step (s : State) : Host.Outcome State Fault Refusal := hostMove s

/-- `s` with the instruction word `w` of the opcode table where `step` fetches next (log 5). -/
def State.withFetchWord (s : State) (nbits w : Nat) : State := s.placeWord (tableWord nbits w)

end Sys2Proof.Machine
end

