-- ==== Sys2Proof/Safety.lean ====
section
/-! DEFINITION. The terms claims use: frames, the host's next tick, the invariant of the core, what a safe step is. -/

namespace Sys2Proof.Machine

/-- Every byte of memory reads as before. -/
def MemSame (s t : State) : Prop := ∀ a, t.readByte a = s.readByte a

/-- Every byte of memory outside the `n` bytes from `base` reads as before. -/
def MemSameOutside (s t : State) (base n : Nat) : Prop :=
  ∀ a, (a < base ∨ base + n ≤ a) → t.readByte a = s.readByte a

/-- Every general register but those listed reads as before. -/
def RegsSameExcept (s t : State) (dest : List Reg) : Prop := ∀ r, r ∉ dest → t.getV r = s.getV r

/-- Everything but PC is as before: registers, I, SP and stack, timers, key-wait, keypad, framebuffer, `changed`, memory,
fault, phase, and the model's own fields. -/
def OnlyPc (s t : State) : Prop := t = { s with pc := t.pc } ∧ MemSame s t

/-- Everything but PC and the listed general registers is as before. -/
def OnlyRegs (s t : State) (dest : List Reg) : Prop :=
  t = { s with v := t.v, pc := t.pc } ∧ RegsSameExcept s t dest ∧ MemSame s t

/-- `WriteResultAndFlag(x, res, flag)` and nothing else but PC, for both settings of `VF_ORDER`: where the result and the flag
both go to VF, the later write stays (42 R201). -/
def ResultAndFlag (s t : State) (x : Reg) (res flag : Byte) : Prop :=
  (s.cfg.vfOrder = .flagLast → t.getV vfReg = flag ∧ (x ≠ vfReg → t.getV x = res)) ∧
  (s.cfg.vfOrder = .resultLast → t.getV x = res ∧ (x ≠ vfReg → t.getV vfReg = flag)) ∧
  OnlyRegs s t [x, vfReg]

/-- Fault entry and nothing else: the record is latched, everything else is as before (60 R322). -/
def OnlyFault (s t : State) (cause : FaultCause) (word : Word) (info : Nat) : Prop :=
  t = { s with fault := some { cause := cause, pc := s.pc, word := word, info := info } } ∧ MemSame s t

/-- The host's next move is a tick with input `inp`, and `s0` is `s` with that move taken: the oldest pending call, or, with no
call pending, a tick with free inputs (logs 1, 2). -/
def NextTick (s : State) (inp : TickInput) (s0 : State) : Prop :=
  (∃ rest, s.host = .tick inp :: rest ∧ s0 = { s with host := rest }) ∨
  (s.host = [] ∧ inp = freeInput s.draws ∧ s0 = { s with draws := s.draws + 1 })

/-- A tick has a step: the program is loaded and no fault is latched (40 R141). -/
def TickEnabled (s : State) : Prop := s.phase = .run ∧ s.fault = none

/-- Row `k`, column `j` of the sprite of `n` rows at I, drawn at `(xc, yc)`, is on and lands on the cell `(r, c)`
(44 R272, R273). -/
def SpriteCovers (s : State) (xc yc n : Nat) (r c : Nat) : Prop :=
  ∃ k < n, ∃ j < 8, (s.readByte (s.i.toNat + k)).getLsbD (7 - j) = true ∧
    (yc + k) % s.cfg.fbH = r ∧ (xc + j) % s.cfg.fbW = c

/-- The state in which an executing tick fetches and executes: the keypad copied, the random byte latched, `changed` cleared, each
timer down by one unless it is 0 (40 R142, R143, R145). -/
def ExecutingState (s0 : State) (inp : TickInput) : State :=
  { s0 with
    keys := inp.keys
    rndIn := inp.rnd
    changed := false
    dt := BitVec.ofNat Config.timerWidth (s0.dt.toNat - 1)
    st := BitVec.ofNat Config.timerWidth (s0.st.toNat - 1) }

/-- A coordinate of DRW: the named register, but 0 where it is VF and the coordinates are read after VF is cleared
(44 R271, decision D7). -/
def drawCoord (s : State) (x : Reg) : Nat :=
  if s.cfg.drwCoordCapture = .afterClear ∧ x = vfReg then 0 else (s.getV x).toNat

/-- The call stack has STACK_DEPTH slots, and the stack pointer is one of 0 to STACK_DEPTH (10 R37; log 29). -/
def State.StackOk (s : State) : Prop := s.stack.length = s.cfg.stackDepth ∧ s.sp ≤ s.cfg.stackDepth

/-- The core's invariant: the parameters are those a core can be built with (log 30); memory is canonical; the framebuffer and the
call stack are as 10 R43 and R37 say; PC is at most 0x10FE, or 2 above the end of memory if that is more, and a stack slot is at most
MEM_SIZE, so that no PC write ever wraps (10 R35); a latched fault names the PC that stands, is met in phase RUN, and does not meet a
key-wait (60 R322, 40 R144). -/
def State.Inv (s : State) : Prop :=
  s.cfg.ok = true ∧ s.memOk = true ∧ s.fbOk = true ∧ s.StackOk ∧ s.pc.toNat ≤ max 0x10FE (s.cfg.memSize + 2) ∧
  (∀ a ∈ s.stack, a.toNat ≤ s.cfg.memSize) ∧
  ∀ f, s.fault = some f → f.pc = s.pc ∧ s.phase = .run ∧ s.keyWait = false

/-- A safe step: it has a next state, with no fault latched. -/
def SafeStep (s : State) : Prop := ∃ t, step s = .next t ∧ t.fault = none

end Sys2Proof.Machine
end

