-- ==== Sys2Proof/Certificates/Slice0/Obligations.lean ====
section
/-! DEFINITION. The statements for the provers, one per claim of the spec, in the order of its files. -/

open Sys2Proof Sys2Proof.Machine

/-! ## Encoding (30_encoding.md) -/

/-- Decoding the word of an instruction gives the instruction back, operand for operand, as a word and as bytes in memory
order. The patterns of 30 R104 are general knowledge in the spec (log 15). -/
def Obligations.DecodeOfEncode : Prop :=
  ∀ i : Instr, i.wellFormed = true →
    decodeWord (encode i) = .instr i ∧ decode (bytesOfWord (encode i)) = .instr i []

/-- A word that decodes to an instruction is that instruction's word, so no two words share an instruction and no bit of a
word is dropped (30 R104; log 15). -/
def Obligations.EncodeOfDecode : Prop :=
  ∀ (w : Word) (i : Instr), decodeWord w = .instr i → encode i = w

/-- The unknown space is exactly the table of 30 R105 (full-pattern decoding, decision D12; log 15). -/
def Obligations.UnknownWordsExactly : Prop :=
  ∀ w : Word, decodeWord w = .unknown ↔
    (w.toNat / 4096 = 0 ∧ w.toNat ≠ 0x00E0 ∧ w.toNat ≠ 0x00EE) ∨
    (w.toNat / 4096 = 5 ∧ w.toNat % 16 ≠ 0) ∨
    (w.toNat / 4096 = 8 ∧ w.toNat % 16 ∈ [0x8, 0x9, 0xA, 0xB, 0xC, 0xD, 0xF]) ∨
    (w.toNat / 4096 = 9 ∧ w.toNat % 16 ≠ 0) ∨
    (w.toNat / 4096 = 0xE ∧ w.toNat % 256 ∉ [0x9E, 0xA1]) ∨
    (w.toNat / 4096 = 0xF ∧ w.toNat % 256 ∉ [0x07, 0x0A, 0x15, 0x18, 0x1E, 0x29, 0x33, 0x55, 0x65])

/-- One word of each family, written out from 30 R104, decodes to its instruction; `0123` is unknown (log 15). -/
def Obligations.SampleWordsDecode : Prop :=
  decodeWord 0x00E0 = .instr .cls ∧ decodeWord 0x00EE = .instr .ret ∧ decodeWord 0x2ABC = .instr (.call 0xABC) ∧
  decodeWord 0x3A12 = .instr (.seImm 0xA 0x12) ∧ decodeWord 0x8AB5 = .instr (.sub 0xA 0xB) ∧
  decodeWord 0xDAB7 = .instr (.drw 0xA 0xB 0x7) ∧ decodeWord 0xEAA1 = .instr (.sknp 0xA) ∧
  decodeWord 0xFA55 = .instr (.stRegs 0xA) ∧ decodeWord 0x0123 = .unknown

/-! ## Control transfer (41_control_flow.md) -/

/-- JP and JP V0 set PC to `nnn` and to `V0 + nnn`, unreduced, and change nothing else (41 R171, R177). -/
def Obligations.JumpsSetPc : Prop :=
  ∀ (nnn : Addr12) (s : State),
    (∃ t, exec (.jp nnn) s = .next t ∧ t.pc.toNat = nnn.toNat ∧ OnlyPc s t) ∧
    (∃ t, exec (.jpV0 nnn) s = .next t ∧ t.pc.toNat = (s.getV 0).toNat + nnn.toNat ∧ OnlyPc s t)

/-- CALL with room on the stack writes PC + 2 at the stack pointer, increments it and jumps; with a full stack it takes
STACK_OVERFLOW, its record's word and info as 60 R321 says, and changes nothing else; for every STACK_DEPTH (41 R172; the fault is
the spec's decision D4, log 6; `StackOk` is the invariant of StepKeepsInvariant, log 29). -/
def Obligations.CallPushesOrFaults : Prop :=
  ∀ (nnn : Addr12) (s : State),
    (s.StackOk → s.sp < s.cfg.stackDepth → ∃ t, exec (.call nnn) s = .next t ∧ t.pc.toNat = nnn.toNat ∧ t.sp = s.sp + 1 ∧
      t.stack[s.sp]? = some (s.pc + 2) ∧ (∀ k, k ≠ s.sp → t.stack[k]? = s.stack[k]?) ∧
      t = { s with pc := t.pc, sp := t.sp, stack := t.stack } ∧ MemSame s t) ∧
    (s.sp = s.cfg.stackDepth → ∃ t, exec (.call nnn) s = .next t ∧
      OnlyFault s t .stackOverflow (encode (.call nnn)) s.cfg.stackDepth)

/-- RET with a return address on the stack decrements the stack pointer and jumps to the slot it then names, the slot kept; with
an empty stack it takes STACK_UNDERFLOW and changes nothing else (41 R170; the fault is the spec's decision D4, log 6; `StackOk`
is the invariant of StepKeepsInvariant, log 29). -/
def Obligations.RetPopsOrFaults : Prop :=
  ∀ s : State,
    (s.StackOk → s.sp ≠ 0 → ∃ t, exec .ret s = .next t ∧ t.sp = s.sp - 1 ∧ s.stack[t.sp]? = some t.pc ∧
      t = { s with pc := t.pc, sp := t.sp } ∧ MemSame s t) ∧
    (s.sp = 0 → ∃ t, exec .ret s = .next t ∧ OnlyFault s t .stackUnderflow 0x00EE 0)

/-- A CALL followed at once by RET comes back to PC + 2 with the stack pointer, every register and everything else but the
written slot as before, for every STACK_DEPTH (95 X7; 41 R181; `StackOk` is the invariant of StepKeepsInvariant, log 29). -/
def Obligations.CallThenRetReturns : Prop :=
  ∀ (nnn : Addr12) (s : State), s.StackOk → s.sp < s.cfg.stackDepth →
    ∃ t u, exec (.call nnn) s = .next t ∧ exec .ret t = .next u ∧
      u = { s with pc := s.pc + 2, stack := t.stack } ∧ ∀ k, k ≠ s.sp → t.stack[k]? = s.stack[k]?

/-- SE and SNE with an immediate add 4 to PC if their condition holds, else 2, and change nothing else (41 R173, R174). -/
def Obligations.ImmediateSkips : Prop :=
  ∀ (x : Reg) (kk : Byte) (s : State),
    (∃ t, exec (.seImm x kk) s = .next t ∧ t.pc = (if s.getV x = kk then s.pc + 4 else s.pc + 2) ∧ OnlyPc s t) ∧
    (∃ t, exec (.sneImm x kk) s = .next t ∧ t.pc = (if s.getV x ≠ kk then s.pc + 4 else s.pc + 2) ∧ OnlyPc s t)

/-- SE and SNE of two registers, likewise (41 R175, R176). -/
def Obligations.RegisterSkips : Prop :=
  ∀ (x y : Reg) (s : State),
    (∃ t, exec (.seReg x y) s = .next t ∧ t.pc = (if s.getV x = s.getV y then s.pc + 4 else s.pc + 2) ∧ OnlyPc s t) ∧
    (∃ t, exec (.sneReg x y) s = .next t ∧ t.pc = (if s.getV x ≠ s.getV y then s.pc + 4 else s.pc + 2) ∧ OnlyPc s t)

/-! ## Loads and the ALU (42_alu.md) -/

/-- LD Vx, kk and LD Vx, Vy (42 R202, R204). -/
def Obligations.LoadsAndMoves : Prop :=
  ∀ (x y : Reg) (kk : Byte) (s : State),
    (∃ t, exec (.ldImm x kk) s = .next t ∧ t.getV x = kk ∧ t.pc = s.pc + 2 ∧ OnlyRegs s t [x]) ∧
    (∃ t, exec (.ldReg x y) s = .next t ∧ t.getV x = s.getV y ∧ t.pc = s.pc + 2 ∧ OnlyRegs s t [x])

/-- OR, AND and XOR are bitwise and write no flag (42 R205, R206, R207). -/
def Obligations.LogicHasNoFlag : Prop :=
  ∀ (x y : Reg) (s : State),
    (∃ t, exec (.orReg x y) s = .next t ∧ t.pc = s.pc + 2 ∧ OnlyRegs s t [x] ∧
      ∀ j < 8, (t.getV x).getLsbD j = ((s.getV x).getLsbD j || (s.getV y).getLsbD j)) ∧
    (∃ t, exec (.andReg x y) s = .next t ∧ t.pc = s.pc + 2 ∧ OnlyRegs s t [x] ∧
      ∀ j < 8, (t.getV x).getLsbD j = ((s.getV x).getLsbD j && (s.getV y).getLsbD j)) ∧
    (∃ t, exec (.xorReg x y) s = .next t ∧ t.pc = s.pc + 2 ∧ OnlyRegs s t [x] ∧
      ∀ j < 8, (t.getV x).getLsbD j = ((s.getV x).getLsbD j ^^ (s.getV y).getLsbD j))

/-- ADD with an immediate and of two registers: the sum modulo 256, and the carry in VF (42 R203, R210). -/
def Obligations.AddWritesCarry : Prop :=
  ∀ (x y : Reg) (kk : Byte) (s : State),
    (∃ t, exec (.addImm x kk) s = .next t ∧ t.pc = s.pc + 2 ∧
      ResultAndFlag s t x (s.getV x + kk) (if 0xFF < (s.getV x).toNat + kk.toNat then 1 else 0)) ∧
    (∃ t, exec (.addReg x y) s = .next t ∧ t.pc = s.pc + 2 ∧
      ResultAndFlag s t x (s.getV x + s.getV y) (if 0xFF < (s.getV x).toNat + (s.getV y).toNat then 1 else 0))

/-- SUB and SUBN: the difference modulo 256, and VF is 1 only when the minuend is strictly greater (42 R211, R213). -/
def Obligations.SubtractFlagIsStrict : Prop :=
  ∀ (x y : Reg) (s : State),
    (∃ t, exec (.sub x y) s = .next t ∧ t.pc = s.pc + 2 ∧
      ResultAndFlag s t x (BitVec.ofNat 8 (256 + (s.getV x).toNat - (s.getV y).toNat))
        (if (s.getV y).toNat < (s.getV x).toNat then 1 else 0)) ∧
    (∃ t, exec (.subn x y) s = .next t ∧ t.pc = s.pc + 2 ∧
      ResultAndFlag s t x (BitVec.ofNat 8 (256 + (s.getV y).toNat - (s.getV x).toNat))
        (if (s.getV x).toNat < (s.getV y).toNat then 1 else 0))

/-- SHR halves Vx, puts the bit shifted out in VF, and reads no Vy (42 R212). -/
def Obligations.ShiftRightHalves : Prop :=
  ∀ (x y : Reg) (s : State), ∃ t, exec (.shr x y) s = .next t ∧ t.pc = s.pc + 2 ∧
    ResultAndFlag s t x (BitVec.ofNat 8 ((s.getV x).toNat / 2)) (BitVec.ofNat 8 ((s.getV x).toNat % 2))

/-- SHL doubles Vx modulo 256, puts the bit shifted out in VF, reads no Vy, and advances PC by `SHL_PC_ADVANCE`, 2 or 0
(42 R214; the parameter is the spec's decision D8, log 12). -/
def Obligations.ShiftLeftDoubles : Prop :=
  ∀ (x y : Reg) (s : State), ∃ t, exec (.shl x y) s = .next t ∧
    (s.cfg.shlPcAdvance = .two → t.pc = s.pc + 2) ∧ (s.cfg.shlPcAdvance = .zero → t.pc = s.pc) ∧
    ResultAndFlag s t x (BitVec.ofNat 8 (2 * (s.getV x).toNat)) (BitVec.ofNat 8 ((s.getV x).toNat / 128))

/-- For a destination other than VF the two settings of `VF_ORDER` give the same state (42 R201, the spec's decision D6,
log 11). -/
def Obligations.VfOrderMattersOnlyForVf : Prop :=
  ∀ (x y : Reg) (kk : Byte) (i : Instr) (s : State) (p : Params), x ≠ vfReg →
    i ∈ [.addImm x kk, .addReg x y, .sub x y, .shr x y, .subn x y, .shl x y] →
    ∃ t u, exec i { s with cfg := { p with vfOrder := .flagLast } } = .next t ∧
      exec i { s with cfg := { p with vfOrder := .resultLast } } = .next u ∧ { u with cfg := t.cfg } = t

/-! ## Index register and memory (43_index_memory.md) -/

/-- LD I and LD F set I to `nnn` and to five times Vx, unmasked (43 R240, R242). -/
def Obligations.LoadIndex : Prop :=
  ∀ (nnn : Addr12) (x : Reg) (s : State),
    (∃ t, exec (.ldI nnn) s = .next t ∧ t.i.toNat = nnn.toNat ∧ t.pc = s.pc + 2 ∧
      t = { s with i := t.i, pc := t.pc } ∧ MemSame s t) ∧
    (∃ t, exec (.ldF x) s = .next t ∧ t.i.toNat = (s.getV x).toNat * 5 ∧ t.pc = s.pc + 2 ∧
      t = { s with i := t.i, pc := t.pc } ∧ MemSame s t)

/-- ADD I, Vx adds Vx to I modulo 65536 and sets VF to whether the new I exceeds the threshold (43 R241; the wrap is the spec's
decision D9, log 18). -/
def Obligations.AddIndexWritesVf : Prop :=
  ∀ (x : Reg) (s : State), ∃ t, exec (.addI x) s = .next t ∧ t.i.toNat = (s.i.toNat + (s.getV x).toNat) % 65536 ∧
    t.getV vfReg = (if s.cfg.fx1eVfThreshold.toNat < t.i.toNat then 1 else 0) ∧ t.pc = s.pc + 2 ∧
    t = { s with i := t.i, v := t.v, pc := t.pc } ∧ RegsSameExcept s t [vfReg] ∧ MemSame s t

/-- LD B, Vx inside memory stores the three decimal digits of Vx at I, I + 1, I + 2 and leaves every other byte and I alone
(43 R243; three bytes as the spec reads the source, log 19). -/
def Obligations.BcdStoresThreeDigits : Prop :=
  ∀ (x : Reg) (s : State), s.memOk = true → s.effAddr 0 + 3 ≤ s.cfg.memSize →
    ∃ t, exec (.ldB x) s = .next t ∧
      (t.readByte (s.effAddr 0)).toNat = (s.getV x).toNat / 100 ∧
      (t.readByte (s.effAddr 0 + 1)).toNat = (s.getV x).toNat / 10 % 10 ∧
      (t.readByte (s.effAddr 0 + 2)).toNat = (s.getV x).toNat % 10 ∧
      MemSameOutside s t (s.effAddr 0) 3 ∧ t.pc = s.pc + 2 ∧ t = { s with mem := t.mem, pc := t.pc }

/-- LD [I], Vx inside memory stores `V[0] .. V[x]` at I and up and leaves every other byte and I alone (43 R244; I unchanged is
the spec's decision D21, log 19). -/
def Obligations.DumpStoresRegisters : Prop :=
  ∀ (x : Reg) (s : State), s.memOk = true → s.effAddr 0 + x.toNat < s.cfg.memSize →
    ∃ t, exec (.stRegs x) s = .next t ∧
      (∀ r : Reg, r.toNat ≤ x.toNat → t.readByte (s.effAddr 0 + r.toNat) = s.getV r) ∧
      MemSameOutside s t (s.effAddr 0) (x.toNat + 1) ∧ t.pc = s.pc + 2 ∧ t = { s with mem := t.mem, pc := t.pc }

/-- LD Vx, [I] inside memory loads `V[0] .. V[x]` from I and up; the registers above x, I and memory stay (43 R245; I unchanged is
the spec's decision D21, log 19). -/
def Obligations.LoadReadsRegisters : Prop :=
  ∀ (x : Reg) (s : State), s.effAddr 0 + x.toNat < s.cfg.memSize →
    ∃ t, exec (.ldRegs x) s = .next t ∧
      (∀ r : Reg, r.toNat ≤ x.toNat → t.getV r = s.readByte (s.effAddr 0 + r.toNat)) ∧
      (∀ r : Reg, x.toNat < r.toNat → t.getV r = s.getV r) ∧
      t.pc = s.pc + 2 ∧ t = { s with v := t.v, pc := t.pc } ∧ MemSame s t

/-- A dump of `V[0] .. V[x]` and a load into any register file from the same I give the dumped values back
(95 X8; that I is the same after the dump and after the load is the spec's decision D21, log 19). -/
def Obligations.DumpThenLoadRestores : Prop :=
  ∀ (x : Reg) (s : State) (v : Vector Byte 16), s.memOk = true → s.effAddr 0 + x.toNat < s.cfg.memSize →
    ∃ t u, exec (.stRegs x) s = .next t ∧ exec (.ldRegs x) { t with v := v } = .next u ∧ u.i = s.i ∧
      ∀ r : Reg, (r.toNat ≤ x.toNat → u.getV r = s.getV r) ∧ (x.toNat < r.toNat → u.getV r = v[r.toNat]'r.isLt)

/-- An access of FX33, FX55, FX65 or DXYN that touches an address at or above MEM_SIZE is not performed: the instruction takes its
bounds fault with the lowest such address and changes nothing else, no byte, register or pixel (20 R71; 60 R321; the spec's decisions
D3 and D5, log 6). -/
def Obligations.BoundsFaultsChangeNothing : Prop :=
  ∀ (x y : Reg) (n : BitVec 4) (s : State),
    (s.cfg.memSize < s.effAddr 0 + 3 → ∃ t, exec (.ldB x) s = .next t ∧
      OnlyFault s t .writeBounds (encode (.ldB x)) (max (s.effAddr 0) s.cfg.memSize)) ∧
    (s.cfg.memSize ≤ s.effAddr 0 + x.toNat → ∃ t, exec (.stRegs x) s = .next t ∧
      OnlyFault s t .writeBounds (encode (.stRegs x)) (max (s.effAddr 0) s.cfg.memSize)) ∧
    (s.cfg.memSize ≤ s.effAddr 0 + x.toNat → ∃ t, exec (.ldRegs x) s = .next t ∧
      OnlyFault s t .readBounds (encode (.ldRegs x)) (max (s.effAddr 0) s.cfg.memSize)) ∧
    (n.toNat ≠ 0 → s.cfg.memSize < s.effAddr 0 + n.toNat → ∃ t, exec (.drw x y n) s = .next t ∧
      OnlyFault s t .readBounds (encode (.drw x y n)) (max (s.effAddr 0) s.cfg.memSize))

/-- The word a register dump stores is the word the next fetch at I reads: no barrier is needed (20 R86, 70 R362). -/
def Obligations.StoredWordIsFetched : Prop :=
  ∀ (x : Reg) (s : State), s.memOk = true → s.effAddr 0 + x.toNat < s.cfg.memSize → 1 ≤ x.toNat →
    ∃ t, exec (.stRegs x) s = .next t ∧ ({ t with pc := s.i } : State).fetch = .word (wordOfBytes (s.getV 0) (s.getV 1))

/-! ## Display (44_display.md) -/

/-- CLS turns every cell of the screen, whatever its size, off, sets `changed` and changes nothing else but PC (44 R270). -/
def Obligations.ClearScreenBlanks : Prop :=
  ∀ s : State, ∃ t, exec .cls s = .next t ∧ (∀ r c, pixel t.fb r c = false) ∧ t.fbOk = true ∧ t.changed = true ∧ t.pc = s.pc + 2 ∧
    t = { s with fb := t.fb, changed := t.changed, pc := t.pc } ∧ MemSame s t

/-- DRW inside memory inverts exactly the cells a 1 bit of the sprite lands on, each coordinate wrapped; VF is 1 if one of them was
on, else 0; `changed` is set; nothing else but PC changes (44 R271, R272, R273; the bit order and the capture of the coordinates are the
spec's decisions D19 and D7, logs 13, 17; that the parameters and the framebuffer's shape are well formed is part of the invariant of
StepKeepsInvariant, log 30). -/
def Obligations.DrawInvertsCoveredCells : Prop :=
  ∀ (x y : Reg) (n : BitVec 4) (s : State), s.cfg.ok = true → s.fbOk = true →
    n.toNat = 0 ∨ s.effAddr 0 + n.toNat ≤ s.cfg.memSize → ∃ t, exec (.drw x y n) s = .next t ∧
      (∀ r c, SpriteCovers s (drawCoord s x) (drawCoord s y) n.toNat r c → pixel t.fb r c = !pixel s.fb r c) ∧
      (∀ r c, ¬ SpriteCovers s (drawCoord s x) (drawCoord s y) n.toNat r c → pixel t.fb r c = pixel s.fb r c) ∧
      ((∃ r c, SpriteCovers s (drawCoord s x) (drawCoord s y) n.toNat r c ∧ pixel s.fb r c = true) → t.getV vfReg = 1) ∧
      ((¬ ∃ r c, SpriteCovers s (drawCoord s x) (drawCoord s y) n.toNat r c ∧ pixel s.fb r c = true) → t.getV vfReg = 0) ∧
      t.fbOk = true ∧ t.changed = true ∧ t.pc = s.pc + 2 ∧
      t = { s with fb := t.fb, v := t.v, changed := t.changed, pc := t.pc } ∧ RegsSameExcept s t [vfReg] ∧ MemSame s t

/-- The same sprite drawn twice at the same coordinates gives the framebuffer back, and after the second draw VF is 1 exactly if
some covered cell was off before the first; if every covered cell was off, VF is 0 between the draws. The two draws have the same
coordinates where neither register is VF, and always under AFTER_CLEAR; where a coordinate register is VF under BEFORE_CLEAR, they do if
VF happens to hold the same value (95 X5, 44 R271 to R273; the bit order and the capture of the coordinates are the spec's decisions D19
and D7, logs 17, 13; the premises on parameters and shape are part of the invariant of StepKeepsInvariant, log 30). -/
def Obligations.DrawTwiceErases : Prop :=
  ∀ (x y : Reg) (n : BitVec 4) (s : State), s.cfg.ok = true → s.fbOk = true →
    n.toNat = 0 ∨ s.effAddr 0 + n.toNat ≤ s.cfg.memSize →
    ∃ t u, exec (.drw x y n) s = .next t ∧ exec (.drw x y n) t = .next u ∧
      ((x ≠ vfReg ∧ y ≠ vfReg) ∨ s.cfg.drwCoordCapture = .afterClear →
        drawCoord t x = drawCoord s x ∧ drawCoord t y = drawCoord s y) ∧
      (drawCoord t x = drawCoord s x → drawCoord t y = drawCoord s y →
        u.fb = s.fb ∧
        ((∀ r c, SpriteCovers s (drawCoord s x) (drawCoord s y) n.toNat r c → pixel s.fb r c = false) → t.getV vfReg = 0) ∧
        ((∃ r c, SpriteCovers s (drawCoord s x) (drawCoord s y) n.toNat r c ∧ pixel s.fb r c = false) → u.getV vfReg = 1) ∧
        ((¬ ∃ r c, SpriteCovers s (drawCoord s x) (drawCoord s y) n.toNat r c ∧ pixel s.fb r c = false) → u.getV vfReg = 0))

/-! ## Random, keypad and timers (45_timers_keys_random.md) -/

/-- RND puts the tick's random byte, masked by kk, in Vx, whatever the byte is (45 R300; the free draw is the spec's decision
D11, log 2). -/
def Obligations.RandomIsMasked : Prop :=
  ∀ (x : Reg) (kk : Byte) (s : State),
    ∃ t, exec (.rnd x kk) s = .next t ∧ t.pc = s.pc + 2 ∧ OnlyRegs s t [x] ∧
      ∀ j < 8, (t.getV x).getLsbD j = (s.rndIn.getLsbD j && kk.getLsbD j)

/-- SKP and SKNP with a key index of 0 to 15 skip on that key pressed and not pressed; with a larger one they take KEY_INDEX and change
nothing else (45 R301, R302; the fault is the spec's decision D10, log 7). -/
def Obligations.KeySkipsOrFaults : Prop :=
  ∀ (x : Reg) (s : State),
    (∀ h : (s.getV x).toNat < 16,
      (∃ t, exec (.skp x) s = .next t ∧ OnlyPc s t ∧
        t.pc = (if s.keys[(s.getV x).toNat]'h = true then s.pc + 4 else s.pc + 2)) ∧
      (∃ t, exec (.sknp x) s = .next t ∧ OnlyPc s t ∧
        t.pc = (if s.keys[(s.getV x).toNat]'h = false then s.pc + 4 else s.pc + 2))) ∧
    (15 < (s.getV x).toNat →
      (∃ t, exec (.skp x) s = .next t ∧ OnlyFault s t .keyIndex (encode (.skp x)) (s.getV x).toNat) ∧
      (∃ t, exec (.sknp x) s = .next t ∧ OnlyFault s t .keyIndex (encode (.sknp x)) (s.getV x).toNat))

/-- FX07 reads DT; FX15 and FX18 write DT and ST, the value not decremented by the instruction, and the beep of a snapshot taken then
is whether ST is above 0 (45 R303, R305, R306; 40 R150; that the snapshot is taken after the instruction is the spec's decision D15,
log 22). -/
def Obligations.TimerMoves : Prop :=
  ∀ (x : Reg) (s : State),
    (∃ t, exec (.ldVxDt x) s = .next t ∧ t.getV x = s.dt ∧ t.pc = s.pc + 2 ∧ OnlyRegs s t [x]) ∧
    (∃ t, exec (.ldDtVx x) s = .next t ∧ t.dt = s.getV x ∧ t.pc = s.pc + 2 ∧ t = { s with dt := t.dt, pc := t.pc } ∧
      MemSame s t) ∧
    (∃ t, exec (.ldStVx x) s = .next t ∧ t.st = s.getV x ∧ t.pc = s.pc + 2 ∧ t = { s with st := t.st, pc := t.pc } ∧
      MemSame s t ∧ (t.snapshot.beepOut = true ↔ s.getV x ≠ 0))

/-- FX0A sets key-wait with x as its target, advances PC past itself, and writes no register (45 R304). -/
def Obligations.AwaitKeyBegins : Prop :=
  ∀ (x : Reg) (s : State), ∃ t, exec (.ldVxK x) s = .next t ∧ t.keyWait = true ∧ t.waitReg = x ∧ t.pc = s.pc + 2 ∧
    t = { s with keyWait := t.keyWait, waitReg := t.waitReg, pc := t.pc } ∧ MemSame s t

/-! ## The tick (40_dispatch.md) -/

/-- A step whose bytes at PC decode to a well-formed instruction runs exactly that instruction, on the state in which the keypad
is copied, `changed` is cleared and the timers are decremented; the host's move is taken from its queue (40 R145, R147, R153; the copy
first is the spec's decision D14, the queue is log 1). -/
def Obligations.StepRunsDecoded : Prop :=
  ∀ (s s0 : State) (inp : TickInput) (i : Instr), NextTick s inp s0 → TickEnabled s → s.keyWait = false →
    s.pc.toNat + 1 < s.cfg.memSize → decode [s.readByte s.pc.toNat, s.readByte (s.pc.toNat + 1)] = .instr i [] → i.wellFormed = true →
    step s = exec i (ExecutingState s0 inp)

/-- A step whose word at PC is unknown only advances PC by 2, beside what every executing tick does (40 R149; log 16). -/
def Obligations.StepRunsUnknown : Prop :=
  ∀ (s s0 : State) (inp : TickInput) (w : Word), NextTick s inp s0 → TickEnabled s → s.keyWait = false →
    s.pc.toNat + 1 < s.cfg.memSize → decode [s.readByte s.pc.toNat, s.readByte (s.pc.toNat + 1)] = .unknown w [] →
    step s = .next { ExecutingState s0 inp with pc := s.pc + 2 }

/-- A waiting tick gives the lowest-numbered pressed key to the target register and ends the wait; with no key pressed it changes
nothing but the keypad and `changed`; either way no instruction runs and no timer moves (40 R144; the keypad it scans is this tick's,
the spec's decision D14). -/
def Obligations.WaitingTickScansKeys : Prop :=
  ∀ (s s0 : State) (inp : TickInput), NextTick s inp s0 → TickEnabled s → s.keyWait = true →
    (∀ k : Fin 16, inp.keys[k] = true → (∀ j : Fin 16, j < k → inp.keys[j] = false) →
      ∃ t, step s = .next t ∧ (t.getV s.waitReg).toNat = k.val ∧ RegsSameExcept s t [s.waitReg] ∧ MemSame s t ∧
        t = { s0 with keys := inp.keys, rndIn := inp.rnd, changed := false, keyWait := false, v := t.v }) ∧
    ((∀ k : Fin 16, inp.keys[k] = false) →
      step s = .next { s0 with keys := inp.keys, rndIn := inp.rnd, changed := false })

/-- FX0A and then a tick with key k the lowest pressed: Vx becomes k, the wait is over, PC is past FX0A, the timers have not moved
(95 X6; 70 R363). -/
def Obligations.AwaitKeyDelivers : Prop :=
  ∀ (x : Reg) (s : State) (inp : TickInput) (rest : List HostOp) (k : Fin 16), TickEnabled s →
    inp.keys[k] = true → (∀ j : Fin 16, j < k → inp.keys[j] = false) →
    ∃ t u, exec (.ldVxK x) s = .next t ∧ step { t with host := .tick inp :: rest } = .next u ∧
      (u.getV x).toNat = k.val ∧ u.keyWait = false ∧ u.pc = s.pc + 2 ∧ u.dt = s.dt ∧ u.st = s.st

/-- A fetch that touches an address at or above MEM_SIZE takes FETCH_BOUNDS with word 0; the keypad copy, `changed` and the timer
decrements of the tick are kept (40 R146, 60 R322; the spec's decisions D3 and D5, log 6). -/
def Obligations.FetchOutsideFaults : Prop :=
  ∀ (s s0 : State) (inp : TickInput), NextTick s inp s0 → TickEnabled s → s.keyWait = false → s.cfg.memSize ≤ s.pc.toNat + 1 →
    ∃ t, step s = .next t ∧ OnlyFault (ExecutingState s0 inp) t .fetchBounds 0 (max s.pc.toNat s.cfg.memSize)

/-- Each timer goes down by one on an executing tick and stops at 0, unless the instruction is the one that writes it; so it does
when the fetch or the instruction faults (45 R307, 60 R322). -/
def Obligations.TimersCountDown : Prop :=
  ∀ (s s0 t : State) (inp : TickInput), NextTick s inp s0 → TickEnabled s → s.keyWait = false → step s = .next t →
    ((∀ x, decodeWord (wordOfBytes (s.readByte s.pc.toNat) (s.readByte (s.pc.toNat + 1))) ≠ .instr (.ldDtVx x)) →
      t.dt.toNat = s.dt.toNat - 1) ∧
    ((∀ x, decodeWord (wordOfBytes (s.readByte s.pc.toNat) (s.readByte (s.pc.toNat + 1))) ≠ .instr (.ldStVx x)) →
      t.st.toNat = s.st.toNat - 1)

/-- With a fault latched no tick has a step; before a program is loaded none has; after one is loaded no second `load` has (40 R141, R152;
70 R354; the spec's decisions D5 and D16, logs 6, 8). -/
def Obligations.NoStepOutsideTheProtocol : Prop :=
  ∀ (s s0 : State) (inp : TickInput) (bytes : List Byte) (rest : List HostOp),
    (NextTick s inp s0 → s.phase = .run → s.fault ≠ none → step s = .fault .halted) ∧
    (NextTick s inp s0 → s.phase = .init → step s = .fault .tickInInit) ∧
    (s.host = .load bytes :: rest → s.phase = .run → step s = .fault .loadInRun)

/-! ## The host's calls (70_reset_and_hazards.md) -/

/-- `initialize` from any state, faulted or not, gives every element of the spec's state its reset value (70 R350, 10 R57; the values of
I, the stack slots, wait_reg, KEYS and `changed` are the spec's decision D13, log 21; the font is written for every FONT,
log 10; PC is PROG_ORIGIN and the screen FB_H by FB_W, whatever they are, log 30). -/
def Obligations.InitializeResets : Prop :=
  ∀ (s : State) (rest : List HostOp), s.host = .initCore :: rest →
    ∃ t, step s = .next t ∧ (∀ r, t.getV r = 0) ∧ t.pc = BitVec.ofNat 16 s.cfg.progOrigin ∧ t.i = s.cfg.iReset ∧ t.sp = 0 ∧
      t.stack = List.replicate s.cfg.stackDepth 0 ∧ t.dt = 0 ∧ t.st = 0 ∧ t.keyWait = false ∧ t.waitReg = 0 ∧
      (∀ k : Fin 16, t.keys[k] = false) ∧ (∀ r c, pixel t.fb r c = false) ∧ t.fbOk = true ∧ t.changed = false ∧
      (∀ a, 80 ≤ a → t.readByte a = 0) ∧ (∀ a (h : a < 80), t.readByte a = s.cfg.font[a]) ∧
      t.fault = none ∧ t.phase = .init ∧ t.host = rest ∧ t.cfg = s.cfg

/-- The reset state: PC at 0x200, registers, stack pointer and timers 0, no key-wait, no fault, the screen 32 rows of 64 cells, all off,
memory 0 above the font, glyphs 0 and F at 0x000 and 0x04B (10 R57; the font bytes are the spec's decision D18, log 10). -/
def Obligations.ResetStateValues : Prop :=
  (∀ r, State.reset.getV r = 0) ∧ State.reset.pc = 0x200 ∧ State.reset.sp = 0 ∧ State.reset.dt = 0 ∧
  State.reset.st = 0 ∧ State.reset.keyWait = false ∧ State.reset.fault = none ∧ State.reset.phase = .init ∧
  State.reset.fb.length = 32 ∧ (∀ row ∈ State.reset.fb, row.length = 64) ∧ (∀ r c, pixel State.reset.fb r c = false) ∧
  (∀ a, 0x50 ≤ a → State.reset.readByte a = 0) ∧
  State.reset.readBytes 0x000 5 = [0xF0, 0x90, 0x90, 0x90, 0xF0] ∧
  State.reset.readBytes 0x04B 5 = [0xF0, 0x80, 0xF0, 0x80, 0x80]

/-- `load` of at most MAX_PROG_LEN bytes before the first tick puts them at PROG_ORIGIN and up, byte for byte, starts the run, and
changes no other byte and nothing else (70 R352). -/
def Obligations.LoadCopiesProgram : Prop :=
  ∀ (s : State) (bytes : List Byte) (rest : List HostOp), s.host = .load bytes :: rest → s.phase = .init →
    s.memOk = true → bytes.length ≤ s.cfg.maxProgLen →
    ∃ t, step s = .next t ∧ (∀ k (h : k < bytes.length), t.readByte (s.cfg.progOrigin + k) = bytes[k]) ∧
      MemSameOutside s t s.cfg.progOrigin bytes.length ∧ t.phase = .run ∧
      t = { s with mem := t.mem, phase := t.phase, host := rest, reply := .loaded }

/-- `load` of more than MAX_PROG_LEN bytes is answered LOAD_TOO_LARGE: no byte is written and the phase stays (70 R353; the spec's decision
D26, log 8). -/
def Obligations.OversizeLoadIsRejected : Prop :=
  ∀ (s : State) (bytes : List Byte) (rest : List HostOp), s.host = .load bytes :: rest → s.phase = .init →
    s.cfg.maxProgLen < bytes.length → step s = .next { s with host := rest, reply := .loadTooLarge }

/-- From reset, `load` of a program and one tick run the program's first word, at 0x200, with the keypad copied, `changed` cleared and
nothing decremented (70 R351; 40 R142, R143; that the keypad is copied before the word runs is the spec's decision D14, log 22; the queue
of calls is log 1). -/
def Obligations.BootRunsFirstWord : Prop :=
  ∀ (b0 b1 : Byte) (bytes : List Byte) (inp : TickInput) (rest : List HostOp), bytes.length + 2 ≤ 3584 →
    ∃ t, step { State.reset with host := .load (b0 :: b1 :: bytes) :: .tick inp :: rest } = .next t ∧ t.pc = 0x200 ∧
      step t = execWord (wordOfBytes b0 b1) { t with host := rest, keys := inp.keys, rndIn := inp.rnd, changed := false }

/-! ## The whole machine -/

/-- Every step from a state that meets the invariant leads to one that meets it: memory stays canonical, the framebuffer keeps FB_H
rows of FB_W, the stack keeps STACK_DEPTH slots and SP stays at most STACK_DEPTH, PC stays at most 0x10FE or 2 above the end of memory
and the stack slots at most MEM_SIZE so that PC never wraps, a latched fault keeps naming the PC that stands (10 R35, R37, R38, R43;
60 R322; logs 14, 29, 30). -/
def Obligations.StepKeepsInvariant : Prop :=
  ∀ s t : State, s.Inv → step s = .next t → t.Inv

/-- The reset state meets the invariant. -/
def Obligations.ResetMeetsInvariant : Prop := State.reset.Inv

/-- An instruction that changes the fault register makes no other change at all, and the record it leaves names its own PC and word
(60 R322; precise faults are the spec's decision D5, log 6). -/
def Obligations.FaultsArePrecise : Prop :=
  ∀ (i : Instr) (s t : State), exec i s = .next t → t.fault ≠ s.fault →
    ∃ cause info, OnlyFault s t cause (encode i) info

/-- Every instruction has a next state from every state, and only RET, CALL, DRW, FX33, FX55, FX65, SKP and SKNP can change the fault
register (60 R321). -/
def Obligations.OnlyEightInstructionsFault : Prop :=
  ∀ (i : Instr) (s : State), ∃ t, exec i s = .next t ∧ (t.fault ≠ s.fault →
    i = .ret ∨ (∃ nnn, i = .call nnn) ∨ (∃ x y n, i = .drw x y n) ∨ (∃ x, i = .ldB x) ∨ (∃ x, i = .stRegs x) ∨
    (∃ x, i = .ldRegs x) ∨ (∃ x, i = .skp x) ∨ (∃ x, i = .sknp x))

/-- Only CLS and DRW change the framebuffer or set `changed` (10 R43, R44). -/
def Obligations.OnlyClsAndDrwDraw : Prop :=
  ∀ (i : Instr) (s t : State), exec i s = .next t → (t.fb ≠ s.fb ∨ t.changed ≠ s.changed) →
    i = .cls ∨ ∃ x y n, i = .drw x y n

/-- Only ANNN, FX1E and FX29 change I (10 R36). -/
def Obligations.OnlyThreeInstructionsWriteIndex : Prop :=
  ∀ (i : Instr) (s t : State), exec i s = .next t → t.i ≠ s.i →
    (∃ nnn, i = .ldI nnn) ∨ (∃ x, i = .addI x) ∨ ∃ x, i = .ldF x

/-- Only CALL writes a stack slot, and only CALL and RET move the stack pointer (10 R37, R38). -/
def Obligations.OnlyCallAndRetUseStack : Prop :=
  ∀ (i : Instr) (s t : State), exec i s = .next t →
    (t.stack ≠ s.stack → ∃ nnn, i = .call nnn) ∧ (t.sp ≠ s.sp → i = .ret ∨ ∃ nnn, i = .call nnn)

/-- Only FX33 and FX55 change memory (10 R45, 20 R75). -/
def Obligations.OnlyTwoInstructionsStore : Prop :=
  ∀ (i : Instr) (s t : State), exec i s = .next t → t.mem ≠ s.mem → (∃ x, i = .ldB x) ∨ ∃ x, i = .stRegs x

/-- Only the flag writers of 10 R50's table, and the instructions that name VF as their ordinary destination, change VF. -/
def Obligations.OnlyNamedInstructionsWriteVf : Prop :=
  ∀ (i : Instr) (s t : State), exec i s = .next t → t.getV vfReg ≠ s.getV vfReg →
    (∃ x kk, i = .addImm x kk) ∨ (∃ x y, i = .addReg x y ∨ i = .sub x y ∨ i = .shr x y ∨ i = .subn x y ∨ i = .shl x y) ∨
    (∃ x y n, i = .drw x y n) ∨ (∃ x, i = .addI x) ∨
    (∃ kk, i = .ldImm vfReg kk ∨ i = .rnd vfReg kk) ∨ (∃ y, i = .ldReg vfReg y ∨ i = .orReg vfReg y ∨ i = .andReg vfReg y ∨
      i = .xorReg vfReg y) ∨ i = .ldVxDt vfReg ∨ i = .ldRegs vfReg

/-- Every PC write but those of JP, CALL, RET and JP V0 keeps the parity of PC, for both settings of `SHL_PC_ADVANCE` (95 X1; 41 R182). -/
def Obligations.PcParityChangesOnlyAtTransfers : Prop :=
  ∀ (i : Instr) (s t : State), exec i s = .next t → t.pc.toNat % 2 ≠ s.pc.toNat % 2 →
    i = .ret ∨ (∃ nnn, i = .jp nnn) ∨ (∃ nnn, i = .call nnn) ∨ ∃ nnn, i = .jpV0 nnn

/-- The random byte is consumed only by CXKK, and the keypad is read only by EX9E and EXA1: every other instruction does the same
whatever they hold (40 R140, 10 R42). -/
def Obligations.InputsReadOnlyByNamedInstructions : Prop :=
  ∀ (i : Instr) (s t : State), exec i s = .next t →
    (∀ b : Byte, (∀ x kk, i ≠ .rnd x kk) → exec i { s with rndIn := b } = .next { t with rndIn := b }) ∧
    (∀ keys : Keypad, (∀ x, i ≠ .skp x) → (∀ x, i ≠ .sknp x) →
      exec i { s with keys := keys } = .next { t with keys := keys })

/-- No step changes the parameters, and once a program is loaded only `initialize` leaves phase RUN (00 R8; 10 R49; that the parameters
stand in the state is the model's choice, log 9). -/
def Obligations.StepKeepsParametersAndPhase : Prop :=
  ∀ s t : State, step s = .next t →
    t.cfg = s.cfg ∧ (s.phase = .run → t.phase ≠ .run → ∃ rest, s.host = .initCore :: rest)

/-- A JP to its own address hangs there, and so does 8XYE where `SHL_PC_ADVANCE` is 0: after the tick PC, memory, the parameters and the
conditions of an executing tick are as before, so the next tick runs the same word again (41 R171, 70 R365; decision D8, log 12). -/
def Obligations.SelfJumpAndStuckShiftHang : Prop :=
  ∀ (s s0 : State) (inp : TickInput) (i : Instr), NextTick s inp s0 → TickEnabled s → s.keyWait = false →
    s.pc.toNat + 1 < s.cfg.memSize → decode [s.readByte s.pc.toNat, s.readByte (s.pc.toNat + 1)] = .instr i [] →
    ((∃ nnn : Addr12, i = .jp nnn ∧ nnn.toNat = s.pc.toNat) ∨ (s.cfg.shlPcAdvance = .zero ∧ ∃ x y, i = .shl x y)) →
    ∃ t, step s = .next t ∧ t.pc = s.pc ∧ MemSame s t ∧ t.cfg = s.cfg ∧ TickEnabled t ∧ t.keyWait = false
end

