-- ==== Sys2Proof/Laws/Decode.lean ====
section
/-! SUPPORT. The fields of the three word patterns, and of a word split into bytes. -/

namespace Sys2Proof

/-- A bit of a concatenation of total width 16. -/
theorem getLsbD_append16 {m k : Nat} (h : m + k = 16) (a : BitVec m) (b : BitVec k) (j : Nat) :
    ((a ++ b).cast h).getLsbD j = if j < k then b.getLsbD j else a.getLsbD (j - k) := by
  simp [BitVec.getLsbD_append]

theorem encodeNnn_bit (op : BitVec 4) (nnn : Addr12) (j : Nat) :
    (encodeNnn op nnn).getLsbD j = if j < 12 then nnn.getLsbD j else op.getLsbD (j - 12) :=
  getLsbD_append16 rfl op nnn j

theorem encodeXkk_bit (op : BitVec 4) (x : Reg) (kk : Byte) (j : Nat) :
    (encodeXkk op x kk).getLsbD j =
      if j < 8 then kk.getLsbD j else if j < 12 then x.getLsbD (j - 8) else op.getLsbD (j - 12) := by
  refine (getLsbD_append16 (m := 4) (k := 12) rfl op (x ++ kk) j).trans ?_
  rw [BitVec.getLsbD_append]
  split <;> split <;> first | rfl | omega

theorem encodeXyn_bit (op : BitVec 4) (x y : Reg) (n : BitVec 4) (j : Nat) :
    (encodeXyn op x y n).getLsbD j =
      if j < 4 then n.getLsbD j else if j < 8 then y.getLsbD (j - 4)
      else if j < 12 then x.getLsbD (j - 8) else op.getLsbD (j - 12) := by
  refine (getLsbD_append16 (m := 4) (k := 12) rfl op (x ++ (y ++ n)) j).trans ?_
  rw [BitVec.getLsbD_append, BitVec.getLsbD_append]
  by_cases h1 : j < 4
  · simp [h1, show j < 8 by omega, show j < 12 by omega]
  · by_cases h2 : j < 8
    · simp [h1, h2, show j < 12 by omega]
    · simp [h1, h2]

theorem wordOfBytes_bit (hi lo : Byte) (j : Nat) :
    (wordOfBytes hi lo).getLsbD j = if j < 8 then lo.getLsbD j else hi.getLsbD (j - 8) :=
  getLsbD_append16 (m := 8) (k := 8) rfl hi lo j

section
variable (op n : BitVec 4) (x y : Reg) (kk : Byte) (nnn : Addr12)

@[simp] theorem opField_encodeNnn : opField (encodeNnn op nnn) = op := by
  unfold opField; ext i hi; simp [encodeNnn_bit, hi]
@[simp] theorem nnnField_encodeNnn : nnnField (encodeNnn op nnn) = nnn := by
  unfold nnnField; ext i hi; simp [encodeNnn_bit, hi]
@[simp] theorem opField_encodeXkk : opField (encodeXkk op x kk) = op := by
  unfold opField; ext i hi; simp [encodeXkk_bit, hi, show ¬ 12 + i < 8 by omega]
@[simp] theorem xField_encodeXkk : xField (encodeXkk op x kk) = x := by
  unfold xField; ext i hi; simp [encodeXkk_bit, hi, show 8 + i < 12 by omega]
@[simp] theorem kkField_encodeXkk : kkField (encodeXkk op x kk) = kk := by
  unfold kkField; ext i hi; simp [encodeXkk_bit, hi]
@[simp] theorem opField_encodeXyn : opField (encodeXyn op x y n) = op := by
  unfold opField; ext i hi; simp [encodeXyn_bit, hi, show ¬ 12 + i < 4 by omega, show ¬ 12 + i < 8 by omega]
@[simp] theorem xField_encodeXyn : xField (encodeXyn op x y n) = x := by
  unfold xField; ext i hi; simp [encodeXyn_bit, hi, show ¬ 8 + i < 4 by omega, show 8 + i < 12 by omega]
@[simp] theorem yField_encodeXyn : yField (encodeXyn op x y n) = y := by
  unfold yField; ext i hi; simp [encodeXyn_bit, hi, show 4 + i < 8 by omega]
@[simp] theorem nField_encodeXyn : nField (encodeXyn op x y n) = n := by
  unfold nField; ext i hi; simp [encodeXyn_bit, hi]
end

/-- A word is its two bytes in fetch order (20 R74). -/
@[simp] theorem wordOfBytes_bytes (w : Word) : wordOfBytes (hiByte w) (loByte w) = w := by
  apply BitVec.eq_of_getLsbD_eq
  intro i hi
  rw [wordOfBytes_bit]
  unfold hiByte loByte
  split
  · simp [*]
  · have : 8 + (i - 8) = i := by omega
    simp [this]; omega

end Sys2Proof
end

