-- ==== Sys2Proof/Laws/State.lean ====
section
/-! SUPPORT. The small lemmas of State: for each named update, what each field is after it. -/

namespace Sys2Proof.Machine

/-- The addresses are those below 65536, as a number that `simp` and `omega` see (00 R8). -/
@[simp] theorem two_pow_addrWidth : 2 ^ Config.addrWidth = 65536 := rfl

/-- The timer values are those below 256, as a number that `simp` and `omega` see (00 R8). -/
@[simp] theorem two_pow_timerWidth : 2 ^ Config.timerWidth = 256 := rfl

variable (s : State)


/-! `State.setV` -/
@[simp] theorem State.setV_v (x : Reg) (b : Byte) : (s.setV x b).v = s.v.set x.toNat b x.isLt := rfl
@[simp] theorem State.setV_pc (x : Reg) (b : Byte) : (s.setV x b).pc = s.pc := rfl
@[simp] theorem State.setV_i (x : Reg) (b : Byte) : (s.setV x b).i = s.i := rfl
@[simp] theorem State.setV_sp (x : Reg) (b : Byte) : (s.setV x b).sp = s.sp := rfl
@[simp] theorem State.setV_stack (x : Reg) (b : Byte) : (s.setV x b).stack = s.stack := rfl
@[simp] theorem State.setV_dt (x : Reg) (b : Byte) : (s.setV x b).dt = s.dt := rfl
@[simp] theorem State.setV_st (x : Reg) (b : Byte) : (s.setV x b).st = s.st := rfl
@[simp] theorem State.setV_keyWait (x : Reg) (b : Byte) : (s.setV x b).keyWait = s.keyWait := rfl
@[simp] theorem State.setV_waitReg (x : Reg) (b : Byte) : (s.setV x b).waitReg = s.waitReg := rfl
@[simp] theorem State.setV_keys (x : Reg) (b : Byte) : (s.setV x b).keys = s.keys := rfl
@[simp] theorem State.setV_fb (x : Reg) (b : Byte) : (s.setV x b).fb = s.fb := rfl
@[simp] theorem State.setV_changed (x : Reg) (b : Byte) : (s.setV x b).changed = s.changed := rfl
@[simp] theorem State.setV_mem (x : Reg) (b : Byte) : (s.setV x b).mem = s.mem := rfl
@[simp] theorem State.setV_fault (x : Reg) (b : Byte) : (s.setV x b).fault = s.fault := rfl
@[simp] theorem State.setV_phase (x : Reg) (b : Byte) : (s.setV x b).phase = s.phase := rfl
@[simp] theorem State.setV_rndIn (x : Reg) (b : Byte) : (s.setV x b).rndIn = s.rndIn := rfl
@[simp] theorem State.setV_host (x : Reg) (b : Byte) : (s.setV x b).host = s.host := rfl
@[simp] theorem State.setV_draws (x : Reg) (b : Byte) : (s.setV x b).draws = s.draws := rfl
@[simp] theorem State.setV_reply (x : Reg) (b : Byte) : (s.setV x b).reply = s.reply := rfl
@[simp] theorem State.setV_cfg (x : Reg) (b : Byte) : (s.setV x b).cfg = s.cfg := rfl

/-! `State.setPc` -/
@[simp] theorem State.setPc_v (target : Addr) : (s.setPc target).v = s.v := rfl
@[simp] theorem State.setPc_pc (target : Addr) : (s.setPc target).pc = target := rfl
@[simp] theorem State.setPc_i (target : Addr) : (s.setPc target).i = s.i := rfl
@[simp] theorem State.setPc_sp (target : Addr) : (s.setPc target).sp = s.sp := rfl
@[simp] theorem State.setPc_stack (target : Addr) : (s.setPc target).stack = s.stack := rfl
@[simp] theorem State.setPc_dt (target : Addr) : (s.setPc target).dt = s.dt := rfl
@[simp] theorem State.setPc_st (target : Addr) : (s.setPc target).st = s.st := rfl
@[simp] theorem State.setPc_keyWait (target : Addr) : (s.setPc target).keyWait = s.keyWait := rfl
@[simp] theorem State.setPc_waitReg (target : Addr) : (s.setPc target).waitReg = s.waitReg := rfl
@[simp] theorem State.setPc_keys (target : Addr) : (s.setPc target).keys = s.keys := rfl
@[simp] theorem State.setPc_fb (target : Addr) : (s.setPc target).fb = s.fb := rfl
@[simp] theorem State.setPc_changed (target : Addr) : (s.setPc target).changed = s.changed := rfl
@[simp] theorem State.setPc_mem (target : Addr) : (s.setPc target).mem = s.mem := rfl
@[simp] theorem State.setPc_fault (target : Addr) : (s.setPc target).fault = s.fault := rfl
@[simp] theorem State.setPc_phase (target : Addr) : (s.setPc target).phase = s.phase := rfl
@[simp] theorem State.setPc_rndIn (target : Addr) : (s.setPc target).rndIn = s.rndIn := rfl
@[simp] theorem State.setPc_host (target : Addr) : (s.setPc target).host = s.host := rfl
@[simp] theorem State.setPc_draws (target : Addr) : (s.setPc target).draws = s.draws := rfl
@[simp] theorem State.setPc_reply (target : Addr) : (s.setPc target).reply = s.reply := rfl
@[simp] theorem State.setPc_cfg (target : Addr) : (s.setPc target).cfg = s.cfg := rfl

/-! `State.advance` -/
@[simp] theorem State.advance_v : (s.advance).v = s.v := rfl
@[simp] theorem State.advance_pc : (s.advance).pc = s.pc + 2 := rfl
@[simp] theorem State.advance_i : (s.advance).i = s.i := rfl
@[simp] theorem State.advance_sp : (s.advance).sp = s.sp := rfl
@[simp] theorem State.advance_stack : (s.advance).stack = s.stack := rfl
@[simp] theorem State.advance_dt : (s.advance).dt = s.dt := rfl
@[simp] theorem State.advance_st : (s.advance).st = s.st := rfl
@[simp] theorem State.advance_keyWait : (s.advance).keyWait = s.keyWait := rfl
@[simp] theorem State.advance_waitReg : (s.advance).waitReg = s.waitReg := rfl
@[simp] theorem State.advance_keys : (s.advance).keys = s.keys := rfl
@[simp] theorem State.advance_fb : (s.advance).fb = s.fb := rfl
@[simp] theorem State.advance_changed : (s.advance).changed = s.changed := rfl
@[simp] theorem State.advance_mem : (s.advance).mem = s.mem := rfl
@[simp] theorem State.advance_fault : (s.advance).fault = s.fault := rfl
@[simp] theorem State.advance_phase : (s.advance).phase = s.phase := rfl
@[simp] theorem State.advance_rndIn : (s.advance).rndIn = s.rndIn := rfl
@[simp] theorem State.advance_host : (s.advance).host = s.host := rfl
@[simp] theorem State.advance_draws : (s.advance).draws = s.draws := rfl
@[simp] theorem State.advance_reply : (s.advance).reply = s.reply := rfl
@[simp] theorem State.advance_cfg : (s.advance).cfg = s.cfg := rfl

/-! `State.skipIf` -/
@[simp] theorem State.skipIf_v (c : Bool) : (s.skipIf c).v = s.v := rfl
@[simp] theorem State.skipIf_pc (c : Bool) : (s.skipIf c).pc = if c then s.pc + 4 else s.pc + 2 := rfl
@[simp] theorem State.skipIf_i (c : Bool) : (s.skipIf c).i = s.i := rfl
@[simp] theorem State.skipIf_sp (c : Bool) : (s.skipIf c).sp = s.sp := rfl
@[simp] theorem State.skipIf_stack (c : Bool) : (s.skipIf c).stack = s.stack := rfl
@[simp] theorem State.skipIf_dt (c : Bool) : (s.skipIf c).dt = s.dt := rfl
@[simp] theorem State.skipIf_st (c : Bool) : (s.skipIf c).st = s.st := rfl
@[simp] theorem State.skipIf_keyWait (c : Bool) : (s.skipIf c).keyWait = s.keyWait := rfl
@[simp] theorem State.skipIf_waitReg (c : Bool) : (s.skipIf c).waitReg = s.waitReg := rfl
@[simp] theorem State.skipIf_keys (c : Bool) : (s.skipIf c).keys = s.keys := rfl
@[simp] theorem State.skipIf_fb (c : Bool) : (s.skipIf c).fb = s.fb := rfl
@[simp] theorem State.skipIf_changed (c : Bool) : (s.skipIf c).changed = s.changed := rfl
@[simp] theorem State.skipIf_mem (c : Bool) : (s.skipIf c).mem = s.mem := rfl
@[simp] theorem State.skipIf_fault (c : Bool) : (s.skipIf c).fault = s.fault := rfl
@[simp] theorem State.skipIf_phase (c : Bool) : (s.skipIf c).phase = s.phase := rfl
@[simp] theorem State.skipIf_rndIn (c : Bool) : (s.skipIf c).rndIn = s.rndIn := rfl
@[simp] theorem State.skipIf_host (c : Bool) : (s.skipIf c).host = s.host := rfl
@[simp] theorem State.skipIf_draws (c : Bool) : (s.skipIf c).draws = s.draws := rfl
@[simp] theorem State.skipIf_reply (c : Bool) : (s.skipIf c).reply = s.reply := rfl
@[simp] theorem State.skipIf_cfg (c : Bool) : (s.skipIf c).cfg = s.cfg := rfl

/-! `State.setI` -/
@[simp] theorem State.setI_v (a : Addr) : (s.setI a).v = s.v := rfl
@[simp] theorem State.setI_pc (a : Addr) : (s.setI a).pc = s.pc := rfl
@[simp] theorem State.setI_i (a : Addr) : (s.setI a).i = a := rfl
@[simp] theorem State.setI_sp (a : Addr) : (s.setI a).sp = s.sp := rfl
@[simp] theorem State.setI_stack (a : Addr) : (s.setI a).stack = s.stack := rfl
@[simp] theorem State.setI_dt (a : Addr) : (s.setI a).dt = s.dt := rfl
@[simp] theorem State.setI_st (a : Addr) : (s.setI a).st = s.st := rfl
@[simp] theorem State.setI_keyWait (a : Addr) : (s.setI a).keyWait = s.keyWait := rfl
@[simp] theorem State.setI_waitReg (a : Addr) : (s.setI a).waitReg = s.waitReg := rfl
@[simp] theorem State.setI_keys (a : Addr) : (s.setI a).keys = s.keys := rfl
@[simp] theorem State.setI_fb (a : Addr) : (s.setI a).fb = s.fb := rfl
@[simp] theorem State.setI_changed (a : Addr) : (s.setI a).changed = s.changed := rfl
@[simp] theorem State.setI_mem (a : Addr) : (s.setI a).mem = s.mem := rfl
@[simp] theorem State.setI_fault (a : Addr) : (s.setI a).fault = s.fault := rfl
@[simp] theorem State.setI_phase (a : Addr) : (s.setI a).phase = s.phase := rfl
@[simp] theorem State.setI_rndIn (a : Addr) : (s.setI a).rndIn = s.rndIn := rfl
@[simp] theorem State.setI_host (a : Addr) : (s.setI a).host = s.host := rfl
@[simp] theorem State.setI_draws (a : Addr) : (s.setI a).draws = s.draws := rfl
@[simp] theorem State.setI_reply (a : Addr) : (s.setI a).reply = s.reply := rfl
@[simp] theorem State.setI_cfg (a : Addr) : (s.setI a).cfg = s.cfg := rfl

/-! `State.setFlag` -/
@[simp] theorem State.setFlag_v (c : Bool) : (s.setFlag c).v = (s.setV vfReg (flagByte c)).v := rfl
@[simp] theorem State.setFlag_pc (c : Bool) : (s.setFlag c).pc = s.pc := rfl
@[simp] theorem State.setFlag_i (c : Bool) : (s.setFlag c).i = s.i := rfl
@[simp] theorem State.setFlag_sp (c : Bool) : (s.setFlag c).sp = s.sp := rfl
@[simp] theorem State.setFlag_stack (c : Bool) : (s.setFlag c).stack = s.stack := rfl
@[simp] theorem State.setFlag_dt (c : Bool) : (s.setFlag c).dt = s.dt := rfl
@[simp] theorem State.setFlag_st (c : Bool) : (s.setFlag c).st = s.st := rfl
@[simp] theorem State.setFlag_keyWait (c : Bool) : (s.setFlag c).keyWait = s.keyWait := rfl
@[simp] theorem State.setFlag_waitReg (c : Bool) : (s.setFlag c).waitReg = s.waitReg := rfl
@[simp] theorem State.setFlag_keys (c : Bool) : (s.setFlag c).keys = s.keys := rfl
@[simp] theorem State.setFlag_fb (c : Bool) : (s.setFlag c).fb = s.fb := rfl
@[simp] theorem State.setFlag_changed (c : Bool) : (s.setFlag c).changed = s.changed := rfl
@[simp] theorem State.setFlag_mem (c : Bool) : (s.setFlag c).mem = s.mem := rfl
@[simp] theorem State.setFlag_fault (c : Bool) : (s.setFlag c).fault = s.fault := rfl
@[simp] theorem State.setFlag_phase (c : Bool) : (s.setFlag c).phase = s.phase := rfl
@[simp] theorem State.setFlag_rndIn (c : Bool) : (s.setFlag c).rndIn = s.rndIn := rfl
@[simp] theorem State.setFlag_host (c : Bool) : (s.setFlag c).host = s.host := rfl
@[simp] theorem State.setFlag_draws (c : Bool) : (s.setFlag c).draws = s.draws := rfl
@[simp] theorem State.setFlag_reply (c : Bool) : (s.setFlag c).reply = s.reply := rfl
@[simp] theorem State.setFlag_cfg (c : Bool) : (s.setFlag c).cfg = s.cfg := rfl

/-! `State.pop` -/
@[simp] theorem State.pop_v : (s.pop).v = s.v := rfl
@[simp] theorem State.pop_pc : (s.pop).pc = s.pc := rfl
@[simp] theorem State.pop_i : (s.pop).i = s.i := rfl
@[simp] theorem State.pop_sp : (s.pop).sp = s.sp - 1 := rfl
@[simp] theorem State.pop_stack : (s.pop).stack = s.stack := rfl
@[simp] theorem State.pop_dt : (s.pop).dt = s.dt := rfl
@[simp] theorem State.pop_st : (s.pop).st = s.st := rfl
@[simp] theorem State.pop_keyWait : (s.pop).keyWait = s.keyWait := rfl
@[simp] theorem State.pop_waitReg : (s.pop).waitReg = s.waitReg := rfl
@[simp] theorem State.pop_keys : (s.pop).keys = s.keys := rfl
@[simp] theorem State.pop_fb : (s.pop).fb = s.fb := rfl
@[simp] theorem State.pop_changed : (s.pop).changed = s.changed := rfl
@[simp] theorem State.pop_mem : (s.pop).mem = s.mem := rfl
@[simp] theorem State.pop_fault : (s.pop).fault = s.fault := rfl
@[simp] theorem State.pop_phase : (s.pop).phase = s.phase := rfl
@[simp] theorem State.pop_rndIn : (s.pop).rndIn = s.rndIn := rfl
@[simp] theorem State.pop_host : (s.pop).host = s.host := rfl
@[simp] theorem State.pop_draws : (s.pop).draws = s.draws := rfl
@[simp] theorem State.pop_reply : (s.pop).reply = s.reply := rfl
@[simp] theorem State.pop_cfg : (s.pop).cfg = s.cfg := rfl

/-! `State.storeBytes` -/
@[simp] theorem State.storeBytes_v (a : Nat) (bs : List Byte) : (s.storeBytes a bs).v = s.v := rfl
@[simp] theorem State.storeBytes_pc (a : Nat) (bs : List Byte) : (s.storeBytes a bs).pc = s.pc := rfl
@[simp] theorem State.storeBytes_i (a : Nat) (bs : List Byte) : (s.storeBytes a bs).i = s.i := rfl
@[simp] theorem State.storeBytes_sp (a : Nat) (bs : List Byte) : (s.storeBytes a bs).sp = s.sp := rfl
@[simp] theorem State.storeBytes_stack (a : Nat) (bs : List Byte) : (s.storeBytes a bs).stack = s.stack := rfl
@[simp] theorem State.storeBytes_dt (a : Nat) (bs : List Byte) : (s.storeBytes a bs).dt = s.dt := rfl
@[simp] theorem State.storeBytes_st (a : Nat) (bs : List Byte) : (s.storeBytes a bs).st = s.st := rfl
@[simp] theorem State.storeBytes_keyWait (a : Nat) (bs : List Byte) : (s.storeBytes a bs).keyWait = s.keyWait := rfl
@[simp] theorem State.storeBytes_waitReg (a : Nat) (bs : List Byte) : (s.storeBytes a bs).waitReg = s.waitReg := rfl
@[simp] theorem State.storeBytes_keys (a : Nat) (bs : List Byte) : (s.storeBytes a bs).keys = s.keys := rfl
@[simp] theorem State.storeBytes_fb (a : Nat) (bs : List Byte) : (s.storeBytes a bs).fb = s.fb := rfl
@[simp] theorem State.storeBytes_changed (a : Nat) (bs : List Byte) : (s.storeBytes a bs).changed = s.changed := rfl
@[simp] theorem State.storeBytes_mem (a : Nat) (bs : List Byte) : (s.storeBytes a bs).mem = s.mem.writeBytes s.cfg a bs := rfl
@[simp] theorem State.storeBytes_fault (a : Nat) (bs : List Byte) : (s.storeBytes a bs).fault = s.fault := rfl
@[simp] theorem State.storeBytes_phase (a : Nat) (bs : List Byte) : (s.storeBytes a bs).phase = s.phase := rfl
@[simp] theorem State.storeBytes_rndIn (a : Nat) (bs : List Byte) : (s.storeBytes a bs).rndIn = s.rndIn := rfl
@[simp] theorem State.storeBytes_host (a : Nat) (bs : List Byte) : (s.storeBytes a bs).host = s.host := rfl
@[simp] theorem State.storeBytes_draws (a : Nat) (bs : List Byte) : (s.storeBytes a bs).draws = s.draws := rfl
@[simp] theorem State.storeBytes_reply (a : Nat) (bs : List Byte) : (s.storeBytes a bs).reply = s.reply := rfl
@[simp] theorem State.storeBytes_cfg (a : Nat) (bs : List Byte) : (s.storeBytes a bs).cfg = s.cfg := rfl

/-! `State.raise` -/
@[simp] theorem State.raise_v (cause : FaultCause) (word : Word) (info : Nat) : (s.raise cause word info).v = s.v := rfl
@[simp] theorem State.raise_pc (cause : FaultCause) (word : Word) (info : Nat) : (s.raise cause word info).pc = s.pc := rfl
@[simp] theorem State.raise_i (cause : FaultCause) (word : Word) (info : Nat) : (s.raise cause word info).i = s.i := rfl
@[simp] theorem State.raise_sp (cause : FaultCause) (word : Word) (info : Nat) : (s.raise cause word info).sp = s.sp := rfl
@[simp] theorem State.raise_stack (cause : FaultCause) (word : Word) (info : Nat) : (s.raise cause word info).stack = s.stack := rfl
@[simp] theorem State.raise_dt (cause : FaultCause) (word : Word) (info : Nat) : (s.raise cause word info).dt = s.dt := rfl
@[simp] theorem State.raise_st (cause : FaultCause) (word : Word) (info : Nat) : (s.raise cause word info).st = s.st := rfl
@[simp] theorem State.raise_keyWait (cause : FaultCause) (word : Word) (info : Nat) : (s.raise cause word info).keyWait = s.keyWait := rfl
@[simp] theorem State.raise_waitReg (cause : FaultCause) (word : Word) (info : Nat) : (s.raise cause word info).waitReg = s.waitReg := rfl
@[simp] theorem State.raise_keys (cause : FaultCause) (word : Word) (info : Nat) : (s.raise cause word info).keys = s.keys := rfl
@[simp] theorem State.raise_fb (cause : FaultCause) (word : Word) (info : Nat) : (s.raise cause word info).fb = s.fb := rfl
@[simp] theorem State.raise_changed (cause : FaultCause) (word : Word) (info : Nat) : (s.raise cause word info).changed = s.changed := rfl
@[simp] theorem State.raise_mem (cause : FaultCause) (word : Word) (info : Nat) : (s.raise cause word info).mem = s.mem := rfl
@[simp] theorem State.raise_fault (cause : FaultCause) (word : Word) (info : Nat) : (s.raise cause word info).fault = some { cause := cause, pc := s.pc, word := word, info := info } := rfl
@[simp] theorem State.raise_phase (cause : FaultCause) (word : Word) (info : Nat) : (s.raise cause word info).phase = s.phase := rfl
@[simp] theorem State.raise_rndIn (cause : FaultCause) (word : Word) (info : Nat) : (s.raise cause word info).rndIn = s.rndIn := rfl
@[simp] theorem State.raise_host (cause : FaultCause) (word : Word) (info : Nat) : (s.raise cause word info).host = s.host := rfl
@[simp] theorem State.raise_draws (cause : FaultCause) (word : Word) (info : Nat) : (s.raise cause word info).draws = s.draws := rfl
@[simp] theorem State.raise_reply (cause : FaultCause) (word : Word) (info : Nat) : (s.raise cause word info).reply = s.reply := rfl
@[simp] theorem State.raise_cfg (cause : FaultCause) (word : Word) (info : Nat) : (s.raise cause word info).cfg = s.cfg := rfl

/-! `State.beginTick` -/
@[simp] theorem State.beginTick_v (inp : TickInput) : (s.beginTick inp).v = s.v := rfl
@[simp] theorem State.beginTick_pc (inp : TickInput) : (s.beginTick inp).pc = s.pc := rfl
@[simp] theorem State.beginTick_i (inp : TickInput) : (s.beginTick inp).i = s.i := rfl
@[simp] theorem State.beginTick_sp (inp : TickInput) : (s.beginTick inp).sp = s.sp := rfl
@[simp] theorem State.beginTick_stack (inp : TickInput) : (s.beginTick inp).stack = s.stack := rfl
@[simp] theorem State.beginTick_dt (inp : TickInput) : (s.beginTick inp).dt = s.dt := rfl
@[simp] theorem State.beginTick_st (inp : TickInput) : (s.beginTick inp).st = s.st := rfl
@[simp] theorem State.beginTick_keyWait (inp : TickInput) : (s.beginTick inp).keyWait = s.keyWait := rfl
@[simp] theorem State.beginTick_waitReg (inp : TickInput) : (s.beginTick inp).waitReg = s.waitReg := rfl
@[simp] theorem State.beginTick_keys (inp : TickInput) : (s.beginTick inp).keys = inp.keys := rfl
@[simp] theorem State.beginTick_fb (inp : TickInput) : (s.beginTick inp).fb = s.fb := rfl
@[simp] theorem State.beginTick_changed (inp : TickInput) : (s.beginTick inp).changed = false := rfl
@[simp] theorem State.beginTick_mem (inp : TickInput) : (s.beginTick inp).mem = s.mem := rfl
@[simp] theorem State.beginTick_fault (inp : TickInput) : (s.beginTick inp).fault = s.fault := rfl
@[simp] theorem State.beginTick_phase (inp : TickInput) : (s.beginTick inp).phase = s.phase := rfl
@[simp] theorem State.beginTick_rndIn (inp : TickInput) : (s.beginTick inp).rndIn = inp.rnd := rfl
@[simp] theorem State.beginTick_host (inp : TickInput) : (s.beginTick inp).host = s.host := rfl
@[simp] theorem State.beginTick_draws (inp : TickInput) : (s.beginTick inp).draws = s.draws := rfl
@[simp] theorem State.beginTick_reply (inp : TickInput) : (s.beginTick inp).reply = s.reply := rfl
@[simp] theorem State.beginTick_cfg (inp : TickInput) : (s.beginTick inp).cfg = s.cfg := rfl

/-! `State.decTimers` -/
@[simp] theorem State.decTimers_v : (s.decTimers).v = s.v := rfl
@[simp] theorem State.decTimers_pc : (s.decTimers).pc = s.pc := rfl
@[simp] theorem State.decTimers_i : (s.decTimers).i = s.i := rfl
@[simp] theorem State.decTimers_sp : (s.decTimers).sp = s.sp := rfl
@[simp] theorem State.decTimers_stack : (s.decTimers).stack = s.stack := rfl
@[simp] theorem State.decTimers_dt : (s.decTimers).dt = countDown s.dt := rfl
@[simp] theorem State.decTimers_st : (s.decTimers).st = countDown s.st := rfl
@[simp] theorem State.decTimers_keyWait : (s.decTimers).keyWait = s.keyWait := rfl
@[simp] theorem State.decTimers_waitReg : (s.decTimers).waitReg = s.waitReg := rfl
@[simp] theorem State.decTimers_keys : (s.decTimers).keys = s.keys := rfl
@[simp] theorem State.decTimers_fb : (s.decTimers).fb = s.fb := rfl
@[simp] theorem State.decTimers_changed : (s.decTimers).changed = s.changed := rfl
@[simp] theorem State.decTimers_mem : (s.decTimers).mem = s.mem := rfl
@[simp] theorem State.decTimers_fault : (s.decTimers).fault = s.fault := rfl
@[simp] theorem State.decTimers_phase : (s.decTimers).phase = s.phase := rfl
@[simp] theorem State.decTimers_rndIn : (s.decTimers).rndIn = s.rndIn := rfl
@[simp] theorem State.decTimers_host : (s.decTimers).host = s.host := rfl
@[simp] theorem State.decTimers_draws : (s.decTimers).draws = s.draws := rfl
@[simp] theorem State.decTimers_reply : (s.decTimers).reply = s.reply := rfl
@[simp] theorem State.decTimers_cfg : (s.decTimers).cfg = s.cfg := rfl

/-! `State.putCanvas` -/
@[simp] theorem State.putCanvas_v (cv : Canvas) : (s.putCanvas cv).v = (s.setFlag cv.coll).v := rfl
@[simp] theorem State.putCanvas_pc (cv : Canvas) : (s.putCanvas cv).pc = s.pc := rfl
@[simp] theorem State.putCanvas_i (cv : Canvas) : (s.putCanvas cv).i = s.i := rfl
@[simp] theorem State.putCanvas_sp (cv : Canvas) : (s.putCanvas cv).sp = s.sp := rfl
@[simp] theorem State.putCanvas_stack (cv : Canvas) : (s.putCanvas cv).stack = s.stack := rfl
@[simp] theorem State.putCanvas_dt (cv : Canvas) : (s.putCanvas cv).dt = s.dt := rfl
@[simp] theorem State.putCanvas_st (cv : Canvas) : (s.putCanvas cv).st = s.st := rfl
@[simp] theorem State.putCanvas_keyWait (cv : Canvas) : (s.putCanvas cv).keyWait = s.keyWait := rfl
@[simp] theorem State.putCanvas_waitReg (cv : Canvas) : (s.putCanvas cv).waitReg = s.waitReg := rfl
@[simp] theorem State.putCanvas_keys (cv : Canvas) : (s.putCanvas cv).keys = s.keys := rfl
@[simp] theorem State.putCanvas_fb (cv : Canvas) : (s.putCanvas cv).fb = cv.fb := rfl
@[simp] theorem State.putCanvas_changed (cv : Canvas) : (s.putCanvas cv).changed = true := rfl
@[simp] theorem State.putCanvas_mem (cv : Canvas) : (s.putCanvas cv).mem = s.mem := rfl
@[simp] theorem State.putCanvas_fault (cv : Canvas) : (s.putCanvas cv).fault = s.fault := rfl
@[simp] theorem State.putCanvas_phase (cv : Canvas) : (s.putCanvas cv).phase = s.phase := rfl
@[simp] theorem State.putCanvas_rndIn (cv : Canvas) : (s.putCanvas cv).rndIn = s.rndIn := rfl
@[simp] theorem State.putCanvas_host (cv : Canvas) : (s.putCanvas cv).host = s.host := rfl
@[simp] theorem State.putCanvas_draws (cv : Canvas) : (s.putCanvas cv).draws = s.draws := rfl
@[simp] theorem State.putCanvas_reply (cv : Canvas) : (s.putCanvas cv).reply = s.reply := rfl
@[simp] theorem State.putCanvas_cfg (cv : Canvas) : (s.putCanvas cv).cfg = s.cfg := rfl

/-! `State.loadImage` -/
@[simp] theorem State.loadImage_v (bytes : List Byte) : (s.loadImage bytes).v = s.v := rfl
@[simp] theorem State.loadImage_pc (bytes : List Byte) : (s.loadImage bytes).pc = s.pc := rfl
@[simp] theorem State.loadImage_i (bytes : List Byte) : (s.loadImage bytes).i = s.i := rfl
@[simp] theorem State.loadImage_sp (bytes : List Byte) : (s.loadImage bytes).sp = s.sp := rfl
@[simp] theorem State.loadImage_stack (bytes : List Byte) : (s.loadImage bytes).stack = s.stack := rfl
@[simp] theorem State.loadImage_dt (bytes : List Byte) : (s.loadImage bytes).dt = s.dt := rfl
@[simp] theorem State.loadImage_st (bytes : List Byte) : (s.loadImage bytes).st = s.st := rfl
@[simp] theorem State.loadImage_keyWait (bytes : List Byte) : (s.loadImage bytes).keyWait = s.keyWait := rfl
@[simp] theorem State.loadImage_waitReg (bytes : List Byte) : (s.loadImage bytes).waitReg = s.waitReg := rfl
@[simp] theorem State.loadImage_keys (bytes : List Byte) : (s.loadImage bytes).keys = s.keys := rfl
@[simp] theorem State.loadImage_fb (bytes : List Byte) : (s.loadImage bytes).fb = s.fb := rfl
@[simp] theorem State.loadImage_changed (bytes : List Byte) : (s.loadImage bytes).changed = s.changed := rfl
@[simp] theorem State.loadImage_mem (bytes : List Byte) : (s.loadImage bytes).mem = s.mem.writeBytes s.cfg s.cfg.progOrigin bytes := rfl
@[simp] theorem State.loadImage_fault (bytes : List Byte) : (s.loadImage bytes).fault = s.fault := rfl
@[simp] theorem State.loadImage_phase (bytes : List Byte) : (s.loadImage bytes).phase = .run := rfl
@[simp] theorem State.loadImage_rndIn (bytes : List Byte) : (s.loadImage bytes).rndIn = s.rndIn := rfl
@[simp] theorem State.loadImage_host (bytes : List Byte) : (s.loadImage bytes).host = s.host := rfl
@[simp] theorem State.loadImage_draws (bytes : List Byte) : (s.loadImage bytes).draws = s.draws := rfl
@[simp] theorem State.loadImage_reply (bytes : List Byte) : (s.loadImage bytes).reply = .loaded := rfl
@[simp] theorem State.loadImage_cfg (bytes : List Byte) : (s.loadImage bytes).cfg = s.cfg := rfl

/-! `State.writeResultAndFlag` -/
@[simp] theorem State.writeResultAndFlag_pc (x : Reg) (res : Byte) (flag : Bool) : (s.writeResultAndFlag x res flag).pc = s.pc := by unfold State.writeResultAndFlag; split <;> rfl
@[simp] theorem State.writeResultAndFlag_i (x : Reg) (res : Byte) (flag : Bool) : (s.writeResultAndFlag x res flag).i = s.i := by unfold State.writeResultAndFlag; split <;> rfl
@[simp] theorem State.writeResultAndFlag_sp (x : Reg) (res : Byte) (flag : Bool) : (s.writeResultAndFlag x res flag).sp = s.sp := by unfold State.writeResultAndFlag; split <;> rfl
@[simp] theorem State.writeResultAndFlag_stack (x : Reg) (res : Byte) (flag : Bool) : (s.writeResultAndFlag x res flag).stack = s.stack := by unfold State.writeResultAndFlag; split <;> rfl
@[simp] theorem State.writeResultAndFlag_dt (x : Reg) (res : Byte) (flag : Bool) : (s.writeResultAndFlag x res flag).dt = s.dt := by unfold State.writeResultAndFlag; split <;> rfl
@[simp] theorem State.writeResultAndFlag_st (x : Reg) (res : Byte) (flag : Bool) : (s.writeResultAndFlag x res flag).st = s.st := by unfold State.writeResultAndFlag; split <;> rfl
@[simp] theorem State.writeResultAndFlag_keyWait (x : Reg) (res : Byte) (flag : Bool) : (s.writeResultAndFlag x res flag).keyWait = s.keyWait := by unfold State.writeResultAndFlag; split <;> rfl
@[simp] theorem State.writeResultAndFlag_waitReg (x : Reg) (res : Byte) (flag : Bool) : (s.writeResultAndFlag x res flag).waitReg = s.waitReg := by unfold State.writeResultAndFlag; split <;> rfl
@[simp] theorem State.writeResultAndFlag_keys (x : Reg) (res : Byte) (flag : Bool) : (s.writeResultAndFlag x res flag).keys = s.keys := by unfold State.writeResultAndFlag; split <;> rfl
@[simp] theorem State.writeResultAndFlag_fb (x : Reg) (res : Byte) (flag : Bool) : (s.writeResultAndFlag x res flag).fb = s.fb := by unfold State.writeResultAndFlag; split <;> rfl
@[simp] theorem State.writeResultAndFlag_changed (x : Reg) (res : Byte) (flag : Bool) : (s.writeResultAndFlag x res flag).changed = s.changed := by unfold State.writeResultAndFlag; split <;> rfl
@[simp] theorem State.writeResultAndFlag_mem (x : Reg) (res : Byte) (flag : Bool) : (s.writeResultAndFlag x res flag).mem = s.mem := by unfold State.writeResultAndFlag; split <;> rfl
@[simp] theorem State.writeResultAndFlag_fault (x : Reg) (res : Byte) (flag : Bool) : (s.writeResultAndFlag x res flag).fault = s.fault := by unfold State.writeResultAndFlag; split <;> rfl
@[simp] theorem State.writeResultAndFlag_phase (x : Reg) (res : Byte) (flag : Bool) : (s.writeResultAndFlag x res flag).phase = s.phase := by unfold State.writeResultAndFlag; split <;> rfl
@[simp] theorem State.writeResultAndFlag_rndIn (x : Reg) (res : Byte) (flag : Bool) : (s.writeResultAndFlag x res flag).rndIn = s.rndIn := by unfold State.writeResultAndFlag; split <;> rfl
@[simp] theorem State.writeResultAndFlag_host (x : Reg) (res : Byte) (flag : Bool) : (s.writeResultAndFlag x res flag).host = s.host := by unfold State.writeResultAndFlag; split <;> rfl
@[simp] theorem State.writeResultAndFlag_draws (x : Reg) (res : Byte) (flag : Bool) : (s.writeResultAndFlag x res flag).draws = s.draws := by unfold State.writeResultAndFlag; split <;> rfl
@[simp] theorem State.writeResultAndFlag_reply (x : Reg) (res : Byte) (flag : Bool) : (s.writeResultAndFlag x res flag).reply = s.reply := by unfold State.writeResultAndFlag; split <;> rfl
@[simp] theorem State.writeResultAndFlag_cfg (x : Reg) (res : Byte) (flag : Bool) : (s.writeResultAndFlag x res flag).cfg = s.cfg := by unfold State.writeResultAndFlag; split <;> rfl

/-! `State.push` -/
@[simp] theorem State.push_v (ret : Addr) : (s.push ret).v = s.v := rfl
@[simp] theorem State.push_pc (ret : Addr) : (s.push ret).pc = s.pc := rfl
@[simp] theorem State.push_i (ret : Addr) : (s.push ret).i = s.i := rfl
@[simp] theorem State.push_sp (ret : Addr) : (s.push ret).sp = s.sp + 1 := rfl
@[simp] theorem State.push_stack (ret : Addr) : (s.push ret).stack = s.stack.set s.sp ret := rfl
@[simp] theorem State.push_dt (ret : Addr) : (s.push ret).dt = s.dt := rfl
@[simp] theorem State.push_st (ret : Addr) : (s.push ret).st = s.st := rfl
@[simp] theorem State.push_keyWait (ret : Addr) : (s.push ret).keyWait = s.keyWait := rfl
@[simp] theorem State.push_waitReg (ret : Addr) : (s.push ret).waitReg = s.waitReg := rfl
@[simp] theorem State.push_keys (ret : Addr) : (s.push ret).keys = s.keys := rfl
@[simp] theorem State.push_fb (ret : Addr) : (s.push ret).fb = s.fb := rfl
@[simp] theorem State.push_changed (ret : Addr) : (s.push ret).changed = s.changed := rfl
@[simp] theorem State.push_mem (ret : Addr) : (s.push ret).mem = s.mem := rfl
@[simp] theorem State.push_fault (ret : Addr) : (s.push ret).fault = s.fault := rfl
@[simp] theorem State.push_phase (ret : Addr) : (s.push ret).phase = s.phase := rfl
@[simp] theorem State.push_rndIn (ret : Addr) : (s.push ret).rndIn = s.rndIn := rfl
@[simp] theorem State.push_host (ret : Addr) : (s.push ret).host = s.host := rfl
@[simp] theorem State.push_draws (ret : Addr) : (s.push ret).draws = s.draws := rfl
@[simp] theorem State.push_reply (ret : Addr) : (s.push ret).reply = s.reply := rfl
@[simp] theorem State.push_cfg (ret : Addr) : (s.push ret).cfg = s.cfg := rfl

/-! `State.coordState` -/
@[simp] theorem State.coordState_pc : (s.coordState).pc = s.pc := by unfold State.coordState; split <;> rfl
@[simp] theorem State.coordState_i : (s.coordState).i = s.i := by unfold State.coordState; split <;> rfl
@[simp] theorem State.coordState_sp : (s.coordState).sp = s.sp := by unfold State.coordState; split <;> rfl
@[simp] theorem State.coordState_stack : (s.coordState).stack = s.stack := by unfold State.coordState; split <;> rfl
@[simp] theorem State.coordState_dt : (s.coordState).dt = s.dt := by unfold State.coordState; split <;> rfl
@[simp] theorem State.coordState_st : (s.coordState).st = s.st := by unfold State.coordState; split <;> rfl
@[simp] theorem State.coordState_keyWait : (s.coordState).keyWait = s.keyWait := by unfold State.coordState; split <;> rfl
@[simp] theorem State.coordState_waitReg : (s.coordState).waitReg = s.waitReg := by unfold State.coordState; split <;> rfl
@[simp] theorem State.coordState_keys : (s.coordState).keys = s.keys := by unfold State.coordState; split <;> rfl
@[simp] theorem State.coordState_fb : (s.coordState).fb = s.fb := by unfold State.coordState; split <;> rfl
@[simp] theorem State.coordState_changed : (s.coordState).changed = s.changed := by unfold State.coordState; split <;> rfl
@[simp] theorem State.coordState_mem : (s.coordState).mem = s.mem := by unfold State.coordState; split <;> rfl
@[simp] theorem State.coordState_fault : (s.coordState).fault = s.fault := by unfold State.coordState; split <;> rfl
@[simp] theorem State.coordState_phase : (s.coordState).phase = s.phase := by unfold State.coordState; split <;> rfl
@[simp] theorem State.coordState_rndIn : (s.coordState).rndIn = s.rndIn := by unfold State.coordState; split <;> rfl
@[simp] theorem State.coordState_host : (s.coordState).host = s.host := by unfold State.coordState; split <;> rfl
@[simp] theorem State.coordState_draws : (s.coordState).draws = s.draws := by unfold State.coordState; split <;> rfl
@[simp] theorem State.coordState_reply : (s.coordState).reply = s.reply := by unfold State.coordState; split <;> rfl
@[simp] theorem State.coordState_cfg : (s.coordState).cfg = s.cfg := by unfold State.coordState; split <;> rfl

/-! `State.scanKeys` -/
@[simp] theorem State.scanKeys_pc : (s.scanKeys).pc = s.pc := by unfold State.scanKeys; split <;> rfl
@[simp] theorem State.scanKeys_i : (s.scanKeys).i = s.i := by unfold State.scanKeys; split <;> rfl
@[simp] theorem State.scanKeys_sp : (s.scanKeys).sp = s.sp := by unfold State.scanKeys; split <;> rfl
@[simp] theorem State.scanKeys_stack : (s.scanKeys).stack = s.stack := by unfold State.scanKeys; split <;> rfl
@[simp] theorem State.scanKeys_dt : (s.scanKeys).dt = s.dt := by unfold State.scanKeys; split <;> rfl
@[simp] theorem State.scanKeys_st : (s.scanKeys).st = s.st := by unfold State.scanKeys; split <;> rfl
@[simp] theorem State.scanKeys_waitReg : (s.scanKeys).waitReg = s.waitReg := by unfold State.scanKeys; split <;> rfl
@[simp] theorem State.scanKeys_keys : (s.scanKeys).keys = s.keys := by unfold State.scanKeys; split <;> rfl
@[simp] theorem State.scanKeys_fb : (s.scanKeys).fb = s.fb := by unfold State.scanKeys; split <;> rfl
@[simp] theorem State.scanKeys_changed : (s.scanKeys).changed = s.changed := by unfold State.scanKeys; split <;> rfl
@[simp] theorem State.scanKeys_mem : (s.scanKeys).mem = s.mem := by unfold State.scanKeys; split <;> rfl
@[simp] theorem State.scanKeys_fault : (s.scanKeys).fault = s.fault := by unfold State.scanKeys; split <;> rfl
@[simp] theorem State.scanKeys_phase : (s.scanKeys).phase = s.phase := by unfold State.scanKeys; split <;> rfl
@[simp] theorem State.scanKeys_rndIn : (s.scanKeys).rndIn = s.rndIn := by unfold State.scanKeys; split <;> rfl
@[simp] theorem State.scanKeys_host : (s.scanKeys).host = s.host := by unfold State.scanKeys; split <;> rfl
@[simp] theorem State.scanKeys_draws : (s.scanKeys).draws = s.draws := by unfold State.scanKeys; split <;> rfl
@[simp] theorem State.scanKeys_reply : (s.scanKeys).reply = s.reply := by unfold State.scanKeys; split <;> rfl
@[simp] theorem State.scanKeys_cfg : (s.scanKeys).cfg = s.cfg := by unfold State.scanKeys; split <;> rfl

/-! `State.load` -/
@[simp] theorem State.load_v (bytes : List Byte) : (s.load bytes).v = s.v := by unfold State.load; split <;> rfl
@[simp] theorem State.load_pc (bytes : List Byte) : (s.load bytes).pc = s.pc := by unfold State.load; split <;> rfl
@[simp] theorem State.load_i (bytes : List Byte) : (s.load bytes).i = s.i := by unfold State.load; split <;> rfl
@[simp] theorem State.load_sp (bytes : List Byte) : (s.load bytes).sp = s.sp := by unfold State.load; split <;> rfl
@[simp] theorem State.load_stack (bytes : List Byte) : (s.load bytes).stack = s.stack := by unfold State.load; split <;> rfl
@[simp] theorem State.load_dt (bytes : List Byte) : (s.load bytes).dt = s.dt := by unfold State.load; split <;> rfl
@[simp] theorem State.load_st (bytes : List Byte) : (s.load bytes).st = s.st := by unfold State.load; split <;> rfl
@[simp] theorem State.load_keyWait (bytes : List Byte) : (s.load bytes).keyWait = s.keyWait := by unfold State.load; split <;> rfl
@[simp] theorem State.load_waitReg (bytes : List Byte) : (s.load bytes).waitReg = s.waitReg := by unfold State.load; split <;> rfl
@[simp] theorem State.load_keys (bytes : List Byte) : (s.load bytes).keys = s.keys := by unfold State.load; split <;> rfl
@[simp] theorem State.load_fb (bytes : List Byte) : (s.load bytes).fb = s.fb := by unfold State.load; split <;> rfl
@[simp] theorem State.load_changed (bytes : List Byte) : (s.load bytes).changed = s.changed := by unfold State.load; split <;> rfl
@[simp] theorem State.load_fault (bytes : List Byte) : (s.load bytes).fault = s.fault := by unfold State.load; split <;> rfl
@[simp] theorem State.load_rndIn (bytes : List Byte) : (s.load bytes).rndIn = s.rndIn := by unfold State.load; split <;> rfl
@[simp] theorem State.load_host (bytes : List Byte) : (s.load bytes).host = s.host := by unfold State.load; split <;> rfl
@[simp] theorem State.load_draws (bytes : List Byte) : (s.load bytes).draws = s.draws := by unfold State.load; split <;> rfl
@[simp] theorem State.load_cfg (bytes : List Byte) : (s.load bytes).cfg = s.cfg := by unfold State.load; split <;> rfl

/-! General registers -/

/-- A register reads what was last written to it. -/
@[simp] theorem State.getV_setV_same (x : Reg) (b : Byte) : (s.setV x b).getV x = b := by
  simp [State.getV]

/-- Writing a register leaves every other register alone. -/
theorem State.getV_setV_ne (x r : Reg) (b : Byte) (h : r ≠ x) : (s.setV x b).getV r = s.getV r := by
  have hn : x.toNat ≠ r.toNat := fun e => h (BitVec.eq_of_toNat_eq e.symm)
  simp [State.getV, hn]

/-- A register after a write, both cases in one equation. -/
theorem State.getV_setV (x r : Reg) (b : Byte) : (s.setV x b).getV r = if r = x then b else s.getV r := by
  by_cases h : r = x
  · subst h; simp
  · simp [h, State.getV_setV_ne]

/-- A register read depends on the register file alone. -/
theorem State.getV_congr {s t : State} (h : t.v = s.v) (r : Reg) : t.getV r = s.getV r := by
  simp [State.getV, h]

/-- Register files that read alike everywhere are equal. -/
theorem State.v_ext {s t : State} (h : ∀ r, t.getV r = s.getV r) : t.v = s.v := by
  apply Vector.ext
  intro k hk
  have := h (BitVec.ofNat 4 k)
  have hm : k % 16 = k := Nat.mod_eq_of_lt hk
  simpa [State.getV, hm] using this

@[simp] theorem State.getV_setPc (target : Addr) (r : Reg) : (s.setPc target).getV r = s.getV r :=
  State.getV_congr (by simp) r
@[simp] theorem State.getV_advance (r : Reg) : (s.advance).getV r = s.getV r :=
  State.getV_congr (by simp) r
@[simp] theorem State.getV_skipIf (c : Bool) (r : Reg) : (s.skipIf c).getV r = s.getV r :=
  State.getV_congr (by simp) r
@[simp] theorem State.getV_setI (a : Addr) (r : Reg) : (s.setI a).getV r = s.getV r :=
  State.getV_congr (by simp) r
@[simp] theorem State.getV_pop (r : Reg) : (s.pop).getV r = s.getV r :=
  State.getV_congr (by simp) r
@[simp] theorem State.getV_storeBytes (a : Nat) (bs : List Byte) (r : Reg) : (s.storeBytes a bs).getV r = s.getV r :=
  State.getV_congr (by simp) r
@[simp] theorem State.getV_raise (cause : FaultCause) (word : Word) (info : Nat) (r : Reg) : (s.raise cause word info).getV r = s.getV r :=
  State.getV_congr (by simp) r
@[simp] theorem State.getV_beginTick (inp : TickInput) (r : Reg) : (s.beginTick inp).getV r = s.getV r :=
  State.getV_congr (by simp) r
@[simp] theorem State.getV_decTimers (r : Reg) : (s.decTimers).getV r = s.getV r :=
  State.getV_congr (by simp) r
@[simp] theorem State.getV_loadImage (bytes : List Byte) (r : Reg) : (s.loadImage bytes).getV r = s.getV r :=
  State.getV_congr (by simp) r
@[simp] theorem State.getV_push (ret : Addr) (r : Reg) : (s.push ret).getV r = s.getV r :=
  State.getV_congr (by simp) r
@[simp] theorem State.getV_load (bytes : List Byte) (r : Reg) : (s.load bytes).getV r = s.getV r :=
  State.getV_congr (by simp) r

/-! Memory: a byte read, the bytes read and the canonical form depend on memory and the parameters alone. -/

/-- A byte read depends on memory and the parameters alone. -/
theorem State.readByte_congr {s t : State} (hm : t.mem = s.mem) (hc : t.cfg = s.cfg) (a : Nat) : t.readByte a = s.readByte a := by
  simp [State.readByte, hm, hc]

/-- The canonical form depends on memory and the parameters alone. -/
theorem State.memOk_congr {s t : State} (hm : t.mem = s.mem) (hc : t.cfg = s.cfg) : t.memOk = s.memOk := by
  simp [State.memOk, hm, hc]

@[simp] theorem State.readByte_setV (x : Reg) (b : Byte) (k : Nat) : (s.setV x b).readByte k = s.readByte k :=
  State.readByte_congr (by simp) (by simp) k
@[simp] theorem State.memOk_setV (x : Reg) (b : Byte) : (s.setV x b).memOk = s.memOk :=
  State.memOk_congr (by simp) (by simp)
@[simp] theorem State.readByte_setPc (target : Addr) (k : Nat) : (s.setPc target).readByte k = s.readByte k :=
  State.readByte_congr (by simp) (by simp) k
@[simp] theorem State.memOk_setPc (target : Addr) : (s.setPc target).memOk = s.memOk :=
  State.memOk_congr (by simp) (by simp)
@[simp] theorem State.readByte_advance (k : Nat) : (s.advance).readByte k = s.readByte k :=
  State.readByte_congr (by simp) (by simp) k
@[simp] theorem State.memOk_advance : (s.advance).memOk = s.memOk :=
  State.memOk_congr (by simp) (by simp)
@[simp] theorem State.readByte_skipIf (c : Bool) (k : Nat) : (s.skipIf c).readByte k = s.readByte k :=
  State.readByte_congr (by simp) (by simp) k
@[simp] theorem State.memOk_skipIf (c : Bool) : (s.skipIf c).memOk = s.memOk :=
  State.memOk_congr (by simp) (by simp)
@[simp] theorem State.readByte_setI (a : Addr) (k : Nat) : (s.setI a).readByte k = s.readByte k :=
  State.readByte_congr (by simp) (by simp) k
@[simp] theorem State.memOk_setI (a : Addr) : (s.setI a).memOk = s.memOk :=
  State.memOk_congr (by simp) (by simp)
@[simp] theorem State.readByte_setFlag (c : Bool) (k : Nat) : (s.setFlag c).readByte k = s.readByte k :=
  State.readByte_congr (by simp) (by simp) k
@[simp] theorem State.memOk_setFlag (c : Bool) : (s.setFlag c).memOk = s.memOk :=
  State.memOk_congr (by simp) (by simp)
@[simp] theorem State.readByte_pop (k : Nat) : (s.pop).readByte k = s.readByte k :=
  State.readByte_congr (by simp) (by simp) k
@[simp] theorem State.memOk_pop : (s.pop).memOk = s.memOk :=
  State.memOk_congr (by simp) (by simp)
@[simp] theorem State.readByte_raise (cause : FaultCause) (word : Word) (info : Nat) (k : Nat) : (s.raise cause word info).readByte k = s.readByte k :=
  State.readByte_congr (by simp) (by simp) k
@[simp] theorem State.memOk_raise (cause : FaultCause) (word : Word) (info : Nat) : (s.raise cause word info).memOk = s.memOk :=
  State.memOk_congr (by simp) (by simp)
@[simp] theorem State.readByte_beginTick (inp : TickInput) (k : Nat) : (s.beginTick inp).readByte k = s.readByte k :=
  State.readByte_congr (by simp) (by simp) k
@[simp] theorem State.memOk_beginTick (inp : TickInput) : (s.beginTick inp).memOk = s.memOk :=
  State.memOk_congr (by simp) (by simp)
@[simp] theorem State.readByte_decTimers (k : Nat) : (s.decTimers).readByte k = s.readByte k :=
  State.readByte_congr (by simp) (by simp) k
@[simp] theorem State.memOk_decTimers : (s.decTimers).memOk = s.memOk :=
  State.memOk_congr (by simp) (by simp)
@[simp] theorem State.readByte_putCanvas (cv : Canvas) (k : Nat) : (s.putCanvas cv).readByte k = s.readByte k :=
  State.readByte_congr (by simp) (by simp) k
@[simp] theorem State.memOk_putCanvas (cv : Canvas) : (s.putCanvas cv).memOk = s.memOk :=
  State.memOk_congr (by simp) (by simp)
@[simp] theorem State.readByte_writeResultAndFlag (x : Reg) (res : Byte) (flag : Bool) (k : Nat) : (s.writeResultAndFlag x res flag).readByte k = s.readByte k :=
  State.readByte_congr (by simp) (by simp) k
@[simp] theorem State.memOk_writeResultAndFlag (x : Reg) (res : Byte) (flag : Bool) : (s.writeResultAndFlag x res flag).memOk = s.memOk :=
  State.memOk_congr (by simp) (by simp)
@[simp] theorem State.readByte_push (ret : Addr) (k : Nat) : (s.push ret).readByte k = s.readByte k :=
  State.readByte_congr (by simp) (by simp) k
@[simp] theorem State.memOk_push (ret : Addr) : (s.push ret).memOk = s.memOk :=
  State.memOk_congr (by simp) (by simp)
@[simp] theorem State.readByte_coordState (k : Nat) : (s.coordState).readByte k = s.readByte k :=
  State.readByte_congr (by simp) (by simp) k
@[simp] theorem State.memOk_coordState : (s.coordState).memOk = s.memOk :=
  State.memOk_congr (by simp) (by simp)
@[simp] theorem State.readByte_scanKeys (k : Nat) : (s.scanKeys).readByte k = s.readByte k :=
  State.readByte_congr (by simp) (by simp) k
@[simp] theorem State.memOk_scanKeys : (s.scanKeys).memOk = s.memOk :=
  State.memOk_congr (by simp) (by simp)

/-! The framebuffer's shape depends on the framebuffer and the parameters alone. -/

/-- The shape depends on the framebuffer and the parameters alone. -/
theorem State.fbOk_congr {s t : State} (hf : t.fb = s.fb) (hc : t.cfg = s.cfg) : t.fbOk = s.fbOk := by
  simp [State.fbOk, hf, hc]

@[simp] theorem State.fbOk_setV (x : Reg) (b : Byte) : (s.setV x b).fbOk = s.fbOk :=
  State.fbOk_congr (by simp) (by simp)
@[simp] theorem State.fbOk_setPc (target : Addr) : (s.setPc target).fbOk = s.fbOk :=
  State.fbOk_congr (by simp) (by simp)
@[simp] theorem State.fbOk_advance : (s.advance).fbOk = s.fbOk :=
  State.fbOk_congr (by simp) (by simp)
@[simp] theorem State.fbOk_skipIf (c : Bool) : (s.skipIf c).fbOk = s.fbOk :=
  State.fbOk_congr (by simp) (by simp)
@[simp] theorem State.fbOk_setI (a : Addr) : (s.setI a).fbOk = s.fbOk :=
  State.fbOk_congr (by simp) (by simp)
@[simp] theorem State.fbOk_setFlag (c : Bool) : (s.setFlag c).fbOk = s.fbOk :=
  State.fbOk_congr (by simp) (by simp)
@[simp] theorem State.fbOk_pop : (s.pop).fbOk = s.fbOk :=
  State.fbOk_congr (by simp) (by simp)
@[simp] theorem State.fbOk_storeBytes (a : Nat) (bs : List Byte) : (s.storeBytes a bs).fbOk = s.fbOk :=
  State.fbOk_congr (by simp) (by simp)
@[simp] theorem State.fbOk_raise (cause : FaultCause) (word : Word) (info : Nat) : (s.raise cause word info).fbOk = s.fbOk :=
  State.fbOk_congr (by simp) (by simp)
@[simp] theorem State.fbOk_beginTick (inp : TickInput) : (s.beginTick inp).fbOk = s.fbOk :=
  State.fbOk_congr (by simp) (by simp)
@[simp] theorem State.fbOk_decTimers : (s.decTimers).fbOk = s.fbOk :=
  State.fbOk_congr (by simp) (by simp)
@[simp] theorem State.fbOk_loadImage (bytes : List Byte) : (s.loadImage bytes).fbOk = s.fbOk :=
  State.fbOk_congr (by simp) (by simp)
@[simp] theorem State.fbOk_writeResultAndFlag (x : Reg) (res : Byte) (flag : Bool) : (s.writeResultAndFlag x res flag).fbOk = s.fbOk :=
  State.fbOk_congr (by simp) (by simp)
@[simp] theorem State.fbOk_push (ret : Addr) : (s.push ret).fbOk = s.fbOk :=
  State.fbOk_congr (by simp) (by simp)
@[simp] theorem State.fbOk_coordState : (s.coordState).fbOk = s.fbOk :=
  State.fbOk_congr (by simp) (by simp)
@[simp] theorem State.fbOk_scanKeys : (s.scanKeys).fbOk = s.fbOk :=
  State.fbOk_congr (by simp) (by simp)
@[simp] theorem State.fbOk_load (bytes : List Byte) : (s.load bytes).fbOk = s.fbOk :=
  State.fbOk_congr (by simp) (by simp)

end Sys2Proof.Machine
end

