-- ==== Sys2Proof/Laws/Display.lean ====
section
/-! SUPPORT. What drawing a sprite does to each cell: the loops of 44 R271 in closed form. -/

namespace Sys2Proof.Machine

/-! The shape of the screen -/

/-- What well-formed parameters say (log 30). -/
theorem Params.ok_iff {p : Params} :
    p.ok = true ↔ p.progOrigin ≤ p.memSize ∧ p.memSize + 2 < 65536 ∧ 8 ≤ p.fbW ∧ 15 ≤ p.fbH := by
  simp [Params.ok, and_assoc]

/-- What the shape says (10 R43). -/
theorem fbShaped_iff {p : Params} {fb : Framebuffer} :
    fbShaped p fb = true ↔ fb.length = p.fbH ∧ ∀ row ∈ fb, row.length = p.fbW := by
  simp [fbShaped]

/-- A row on the screen is FB_W cells long. -/
theorem length_row {p : Params} {fb : Framebuffer} (h : fbShaped p fb = true) {r : Nat} (hr : r < p.fbH) :
    (fb.getD r []).length = p.fbW := by
  obtain ⟨hl, hrow⟩ := fbShaped_iff.mp h
  have hlt : r < fb.length := by omega
  rw [List.getD_eq_getElem _ _ hlt]
  exact hrow _ (List.getElem_mem hlt)

/-- A blank framebuffer has the shape of the screen. -/
@[simp] theorem fbShaped_blankFb (p : Params) : fbShaped p (blankFb p) = true := by
  simp [fbShaped, blankFb]

/-- Writing a cell keeps the shape. -/
theorem fbShaped_putPixel {p : Params} {fb : Framebuffer} (h : fbShaped p fb = true) (r c : Nat) (b : Bool) :
    fbShaped p (putPixel fb r c b) = true := by
  obtain ⟨hl, hrow⟩ := fbShaped_iff.mp h
  by_cases hr : r < fb.length
  · refine fbShaped_iff.mpr ⟨by simpa [putPixel] using hl, fun row hm => ?_⟩
    rcases List.mem_or_eq_of_mem_set hm with hm | rfl
    · exact hrow row hm
    · simpa using length_row h (hl ▸ hr)
  · have : putPixel fb r c b = fb := List.set_eq_of_length_le (by omega)
    rw [this]; exact h

/-- A cell of the screen reads what was last written to it, every other cell as before. -/
theorem pixel_putPixel {p : Params} {fb : Framebuffer} (h : fbShaped p fb = true) {r c : Nat} (hr : r < p.fbH) (hc : c < p.fbW)
    (R C : Nat) (b : Bool) : pixel (putPixel fb r c b) R C = if R = r ∧ C = c then b else pixel fb R C := by
  have hlt : r < fb.length := by rw [(fbShaped_iff.mp h).1]; exact hr
  have hrow := length_row h hr
  unfold pixel putPixel
  by_cases he : R = r
  · subst he
    generalize fb.getD R [] = row at hrow ⊢
    by_cases hC : C = c
    · subst hC; simp [hlt, hrow, hc]
    · simp [hlt, hC, List.getElem?_set_ne (Ne.symm hC)]
  · simp [he, List.getElem?_set_ne (Ne.symm he)]

/-- A blank framebuffer has every cell off. -/
@[simp] theorem pixel_blankFb (p : Params) (r c : Nat) : pixel (blankFb p) r c = false := by
  unfold pixel blankFb
  rw [List.getD_eq_getElem?_getD, List.getD_eq_getElem?_getD, List.getElem?_replicate]
  split <;> simp [List.getElem?_replicate]
  split <;> simp

/-- Framebuffers of one shape that read alike on the screen are equal. -/
theorem fb_ext {p : Params} {fb fb' : Framebuffer} (h : fbShaped p fb = true) (h' : fbShaped p fb' = true)
    (he : ∀ r < p.fbH, ∀ c < p.fbW, pixel fb r c = pixel fb' r c) : fb = fb' := by
  have hl := (fbShaped_iff.mp h).1
  have hl' := (fbShaped_iff.mp h').1
  apply List.ext_getElem (hl.trans hl'.symm)
  intro r hr hr'
  have hrow := length_row h (r := r) (by omega)
  have hrow' := length_row h' (r := r) (by omega)
  have hpix := he r (by omega)
  unfold pixel at hpix
  rw [List.getD_eq_getElem _ _ hr] at hrow hpix
  rw [List.getD_eq_getElem _ _ hr'] at hrow' hpix
  apply List.ext_getElem (hrow.trans hrow'.symm)
  intro c hc hc'
  have := hpix c (by omega)
  rwa [List.getD_eq_getElem _ _ hc, List.getD_eq_getElem _ _ hc'] at this

/-! Where a sprite lands -/

variable {p : Params}

/-- Column `j` of a sprite row is on and lands on cell `(R, C)`, row numbers counted from `r` (44 R272, R273). -/
def Lands (p : Params) (x y r : Nat) (b : Byte) (R C j : Nat) : Prop :=
  spriteBit b j = true ∧ R = destRow p y r ∧ C = destCol p x j

theorem destRow_lt (hp : p.ok = true) (y r : Nat) : destRow p y r < p.fbH :=
  Nat.mod_lt _ (by have := Params.ok_iff.mp hp; omega)

theorem destCol_lt (hp : p.ok = true) (x j : Nat) : destCol p x j < p.fbW :=
  Nat.mod_lt _ (by have := Params.ok_iff.mp hp; omega)

theorem destCol_inj {x j j' : Nat} (hj : j < p.fbW) (hj' : j' < p.fbW) (h : destCol p x j = destCol p x j') : j = j' :=
  (Nat.ModEq.add_left_cancel' x h).eq_of_lt_of_lt hj hj'

theorem destRow_inj {y r r' : Nat} (hr : r < p.fbH) (hr' : r' < p.fbH) (h : destRow p y r = destRow p y r') : r = r' :=
  (Nat.ModEq.add_left_cancel' y h).eq_of_lt_of_lt hr hr'

/-! One column, one row, all rows -/

/-- One column keeps the shape. -/
theorem fbShaped_drawCol (x y r : Nat) (b : Byte) {cv : Canvas} (j : Nat) (h : fbShaped p cv.fb = true) :
    fbShaped p (drawCol p x y r b cv j).fb = true := by
  unfold drawCol
  split
  · exact fbShaped_putPixel h _ _ _
  · exact h

/-- The columns of a row keep the shape. -/
theorem fbShaped_foldl_drawCol (x y r : Nat) (b : Byte) {cv : Canvas} (js : List Nat) (h : fbShaped p cv.fb = true) :
    fbShaped p (js.foldl (drawCol p x y r b) cv).fb = true := by
  induction js generalizing cv with
  | nil => exact h
  | cons j js ih => exact ih (fbShaped_drawCol x y r b j h)

/-- The rows of a sprite keep the shape. -/
theorem fbShaped_drawRows (x y r : Nat) (bs : List Byte) {cv : Canvas} (h : fbShaped p cv.fb = true) :
    fbShaped p (drawRows p x y r bs cv).fb = true := by
  induction bs generalizing r cv with
  | nil => exact h
  | cons b bs ih => exact ih (r + 1) (fbShaped_foldl_drawCol x y r b _ h)

/-- One column: a cell it lands on is inverted, every other cell is as before. -/
theorem pixel_drawCol (hp : p.ok = true) (x y r : Nat) (b : Byte) {cv : Canvas} (hs : fbShaped p cv.fb = true) (j R C : Nat) :
    (Lands p x y r b R C j → pixel (drawCol p x y r b cv j).fb R C = !pixel cv.fb R C) ∧
    (¬ Lands p x y r b R C j → pixel (drawCol p x y r b cv j).fb R C = pixel cv.fb R C) := by
  unfold drawCol Lands
  split
  · simp only [drawPixel, pixel_putPixel hs (destRow_lt hp y r) (destCol_lt hp x j), *]
    constructor
    · rintro ⟨-, rfl, rfl⟩; simp
    · intro h; rw [if_neg]; simpa using h
  · simp [*]

theorem coll_drawCol (x y r : Nat) (b : Byte) (cv : Canvas) (j : Nat) :
    ((drawCol p x y r b cv j).coll = true ↔
      cv.coll = true ∨ spriteBit b j = true ∧ pixel cv.fb (destRow p y r) (destCol p x j) = true) := by
  unfold drawCol
  split <;> simp [drawPixel, *]

/-- The first `m` columns of one row. -/
theorem pixel_foldl_drawCol (hok : p.ok = true) (x y r : Nat) (b : Byte) {cv : Canvas} (hs : fbShaped p cv.fb = true) (m : Nat)
    (hm : m ≤ p.fbW) :
    (∀ R C, ((∃ j < m, Lands p x y r b R C j) →
        pixel ((List.range m).foldl (drawCol p x y r b) cv).fb R C = !pixel cv.fb R C) ∧
      (¬ (∃ j < m, Lands p x y r b R C j) →
        pixel ((List.range m).foldl (drawCol p x y r b) cv).fb R C = pixel cv.fb R C)) ∧
    (((List.range m).foldl (drawCol p x y r b) cv).coll = true ↔
      cv.coll = true ∨ ∃ j < m, spriteBit b j = true ∧ pixel cv.fb (destRow p y r) (destCol p x j) = true) := by
  induction m with
  | zero => simp
  | succ m ih =>
    obtain ⟨hp, hc⟩ := ih (by omega)
    rw [List.range_succ, List.foldl_append, List.foldl_cons, List.foldl_nil]
    have hs' := fbShaped_foldl_drawCol x y r b (List.range m) hs
    generalize (List.range m).foldl (drawCol p x y r b) cv = cv' at hp hc hs' ⊢
    constructor
    · intro R C
      obtain ⟨h1, h2⟩ := pixel_drawCol hok x y r b hs' m R C
      by_cases hl : Lands p x y r b R C m
      · have hno : ¬ ∃ j < m, Lands p x y r b R C j := by
          rintro ⟨j, hj, hlj⟩
          have := destCol_inj (by omega) (by omega) (hlj.2.2.symm.trans hl.2.2)
          omega
        refine ⟨fun _ => ?_, fun h => absurd ⟨m, by omega, hl⟩ h⟩
        rw [h1 hl, (hp R C).2 hno]
      · rw [h2 hl]
        have hiff : (∃ j < m + 1, Lands p x y r b R C j) ↔ ∃ j < m, Lands p x y r b R C j := by
          constructor
          · rintro ⟨j, hj, hlj⟩
            rcases Nat.lt_succ_iff_lt_or_eq.mp hj with h | h
            · exact ⟨j, h, hlj⟩
            · subst h; exact absurd hlj hl
          · rintro ⟨j, hj, hlj⟩; exact ⟨j, by omega, hlj⟩
        rw [hiff]; exact hp R C
    · rw [coll_drawCol, hc]
      have hsame : pixel cv'.fb (destRow p y r) (destCol p x m) = pixel cv.fb (destRow p y r) (destCol p x m) := by
        apply (hp _ _).2
        rintro ⟨j, hj, hlj⟩
        have := destCol_inj (by omega) (by omega) hlj.2.2
        omega
      rw [hsame]
      constructor
      · rintro ((h | ⟨j, hj, h⟩) | h)
        · exact .inl h
        · exact .inr ⟨j, by omega, h⟩
        · exact .inr ⟨m, by omega, h⟩
      · rintro (h | ⟨j, hj, h⟩)
        · exact .inl (.inl h)
        · rcases Nat.lt_succ_iff_lt_or_eq.mp hj with h' | h'
          · exact .inl (.inr ⟨j, h', h⟩)
          · subst h'; exact .inr h

/-- The rows `bs` of a sprite, the first of them row `r`: each cell a 1 bit lands on is inverted once, every other cell is as
before, and the collision bit says whether one of those cells was on (44 R271, R273). -/
theorem drawRows_spec (hok : p.ok = true) (x y r : Nat) (bs : List Byte) {cv : Canvas} (hs : fbShaped p cv.fb = true)
    (hlen : r + bs.length ≤ p.fbH) :
    (∀ R C, ((∃ k, ∃ h : k < bs.length, ∃ j < 8, Lands p x y (r + k) bs[k] R C j) →
        pixel (drawRows p x y r bs cv).fb R C = !pixel cv.fb R C) ∧
      (¬ (∃ k, ∃ h : k < bs.length, ∃ j < 8, Lands p x y (r + k) bs[k] R C j) →
        pixel (drawRows p x y r bs cv).fb R C = pixel cv.fb R C)) ∧
    ((drawRows p x y r bs cv).coll = true ↔
      cv.coll = true ∨ ∃ k, ∃ h : k < bs.length, ∃ j < 8,
        spriteBit bs[k] j = true ∧ pixel cv.fb (destRow p y (r + k)) (destCol p x j) = true) := by
  induction bs generalizing r cv with
  | nil => simp [drawRows]
  | cons b bs ih =>
    simp only [List.length_cons] at hlen
    obtain ⟨hp, hc⟩ := pixel_foldl_drawCol hok x y r b hs 8 (Params.ok_iff.mp hok).2.2.1
    obtain ⟨ip, ic⟩ := ih (r + 1) (cv := drawRow p x y r b cv) (fbShaped_foldl_drawCol x y r b _ hs) (by omega)
    have hexists : ∀ (P : Nat → Byte → Nat → Prop), (∃ k, ∃ h : k < (b :: bs).length, ∃ j < 8, P (r + k) (b :: bs)[k] j) ↔
        (∃ j < 8, P r b j) ∨ ∃ k, ∃ h : k < bs.length, ∃ j < 8, P (r + 1 + k) bs[k] j := by
      intro P
      constructor
      · rintro ⟨k, hk, j, hj, h⟩
        cases k with
        | zero => exact .inl ⟨j, hj, h⟩
        | succ k =>
          refine .inr ⟨k, by simpa using hk, j, hj, ?_⟩
          rw [show r + 1 + k = r + (k + 1) by omega]; exact h
      · rintro (⟨j, hj, h⟩ | ⟨k, hk, j, hj, h⟩)
        · exact ⟨0, by simp, j, hj, h⟩
        · refine ⟨k + 1, by simpa using hk, j, hj, ?_⟩
          rw [show r + (k + 1) = r + 1 + k by omega]; exact h
    simp only [drawRows]
    constructor
    · intro R C
      have he := hexists (fun r b j => Lands p x y r b R C j)
      by_cases hfirst : ∃ j < 8, Lands p x y r b R C j
      · have hno : ¬ ∃ k, ∃ h : k < bs.length, ∃ j < 8, Lands p x y (r + 1 + k) bs[k] R C j := by
          rintro ⟨k, hk, j, hj, hl⟩
          obtain ⟨j', hj', hl'⟩ := hfirst
          have := destRow_inj (p := p) (by omega) (by omega)
            (hl.2.1.symm.trans hl'.2.1)
          omega
        refine ⟨fun _ => ?_, fun h => absurd (he.mpr (.inl hfirst)) h⟩
        rw [(ip R C).2 hno]; exact (hp R C).1 hfirst
      · have hd : pixel (drawRow p x y r b cv).fb R C = pixel cv.fb R C := (hp R C).2 hfirst
        have hi := ip R C
        rw [hd] at hi
        have : (∃ k, ∃ h : k < (b :: bs).length, ∃ j < 8, Lands p x y (r + k) (b :: bs)[k] R C j) ↔
            ∃ k, ∃ h : k < bs.length, ∃ j < 8, Lands p x y (r + 1 + k) bs[k] R C j :=
          he.trans ⟨fun h => h.resolve_left hfirst, .inr⟩
        rw [this]; exact hi
    · have he := hexists (fun r b j => spriteBit b j = true ∧ pixel cv.fb (destRow p y r) (destCol p x j) = true)
      rw [ic, he]
      have hrow : (drawRow p x y r b cv).coll = true ↔
          cv.coll = true ∨ ∃ j < 8, spriteBit b j = true ∧ pixel cv.fb (destRow p y r) (destCol p x j) = true := hc
      rw [hrow]
      have hsame : ∀ k, k < bs.length → ∀ C, pixel (drawRow p x y r b cv).fb (destRow p y (r + 1 + k)) C =
          pixel cv.fb (destRow p y (r + 1 + k)) C := by
        intro k hk C
        apply (hp _ _).2
        rintro ⟨j, hj, hl⟩
        have := destRow_inj (p := p) (by omega) (by omega) hl.2.1
        omega
      rw [or_assoc]
      apply or_congr_right
      apply or_congr_right
      constructor
      · rintro ⟨k, hk, j, hj, h1, h2⟩; exact ⟨k, hk, j, hj, h1, by rw [← hsame k hk]; exact h2⟩
      · rintro ⟨k, hk, j, hj, h1, h2⟩; exact ⟨k, hk, j, hj, h1, by rw [hsame k hk]; exact h2⟩

end Sys2Proof.Machine
end

