-- ==== Sys2Proof/Laws/Memory.lean ====
section
/-! SUPPORT. The laws of memory: a read after a write, and that every memory operation keeps the canonical form. -/

namespace Sys2Proof.Machine

variable {p : Params}

/-! The reset contents -/

/-- Below 0x50 an unlisted address reads as its byte of FONT (10 R46, R57). -/
theorem Memory.unlisted_font (p : Params) {a : Nat} (h : a < 80) : Memory.unlisted p a = p.font[a] := by
  simp [Memory.unlisted, Vector.getElem?_eq_getElem (show a < Config.numGlyphs * Config.glyphBytes from h)]

/-- From 0x50 on an unlisted address reads as 0 (10 R57). -/
theorem Memory.unlisted_above (p : Params) {a : Nat} (h : 80 ≤ a) : Memory.unlisted p a = 0 := by
  simp [Memory.unlisted, Vector.getElem?_eq_none (show Config.numGlyphs * Config.glyphBytes ≤ a from h)]

/-! The canonical form, from a lower bound on the addresses -/

theorem Memory.wfFrom_cons {lo k : Nat} {v : Byte} {rest : Memory} :
    Memory.wfFrom p lo ((k, v) :: rest) = true ↔
      lo ≤ k ∧ k < p.memSize ∧ v ≠ Memory.unlisted p k ∧ Memory.wfFrom p (k + 1) rest = true := by
  simp [Memory.wfFrom, and_assoc]

theorem Memory.wfFrom_mono {lo lo' : Nat} (h : lo' ≤ lo) {m : Memory} (hm : Memory.wfFrom p lo m = true) :
    Memory.wfFrom p lo' m = true := by
  cases m with
  | nil => rfl
  | cons c rest =>
    obtain ⟨k, v⟩ := c
    rw [Memory.wfFrom_cons] at hm ⊢
    exact ⟨h.trans hm.1, hm.2⟩

/-- Below the bound nothing is listed. -/
theorem Memory.read_below {lo a : Nat} {m : Memory} (hm : Memory.wfFrom p lo m = true) (ha : a < lo) :
    m.read p a = Memory.unlisted p a := by
  induction m generalizing lo with
  | nil => rfl
  | cons c rest ih =>
    obtain ⟨k, v⟩ := c
    rw [Memory.wfFrom_cons] at hm
    have hne : a ≠ k := by omega
    simp only [Memory.read, hne, if_false]
    exact ih hm.2.2.2 (by omega)

theorem Memory.wfFrom_consCell {lo a : Nat} {b : Byte} {rest : Memory} (hlo : lo ≤ a) (ha : a < p.memSize)
    (hr : Memory.wfFrom p (a + 1) rest = true) : Memory.wfFrom p lo (Memory.consCell p a b rest) = true := by
  unfold Memory.consCell
  split
  · exact Memory.wfFrom_mono (by omega) hr
  · exact Memory.wfFrom_cons.mpr ⟨hlo, ha, ‹_›, hr⟩

theorem Memory.wfFrom_write {lo a : Nat} {b : Byte} {m : Memory} (hm : Memory.wfFrom p lo m = true) (hlo : lo ≤ a)
    (ha : a < p.memSize) : Memory.wfFrom p lo (m.write p a b) = true := by
  induction m generalizing lo with
  | nil => exact Memory.wfFrom_consCell hlo ha rfl
  | cons c rest ih =>
    obtain ⟨k, v⟩ := c
    have hc := Memory.wfFrom_cons.mp hm
    unfold Memory.write
    split
    · exact Memory.wfFrom_consCell hlo ha (Memory.wfFrom_cons.mpr ⟨by omega, hc.2⟩)
    · split
      · subst a; exact Memory.wfFrom_consCell hlo ha hc.2.2.2
      · exact Memory.wfFrom_cons.mpr ⟨hc.1, hc.2.1, hc.2.2.1, ih hc.2.2.2 (by omega)⟩

/-! Read after write -/

theorem Memory.read_consCell_ne {a a' : Nat} {b : Byte} {rest : Memory} (h : a' ≠ a) :
    Memory.read p (Memory.consCell p a b rest) a' = Memory.read p rest a' := by
  unfold Memory.consCell
  split <;> simp [Memory.read, h]

theorem Memory.read_consCell_same {a : Nat} {b : Byte} {rest : Memory} (hr : Memory.wfFrom p (a + 1) rest = true) :
    Memory.read p (Memory.consCell p a b rest) a = b := by
  unfold Memory.consCell
  split
  · rw [Memory.read_below hr (by omega), ‹b = _›]
  · simp [Memory.read]

/-- A write leaves every other address alone (20 R77). -/
theorem Memory.read_write_ne (m : Memory) {a a' : Nat} (b : Byte) (h : a' ≠ a) : (m.write p a b).read p a' = m.read p a' := by
  induction m with
  | nil => exact Memory.read_consCell_ne h
  | cons c rest ih =>
    obtain ⟨k, v⟩ := c
    unfold Memory.write
    split
    · exact Memory.read_consCell_ne h
    · split
      · subst a; rw [Memory.read_consCell_ne h]; simp [Memory.read, h]
      · simp [Memory.read, ih]

theorem Memory.read_write_same_from {lo a : Nat} {m : Memory} (b : Byte) (hm : Memory.wfFrom p lo m = true) :
    (m.write p a b).read p a = b := by
  induction m generalizing lo with
  | nil => exact Memory.read_consCell_same rfl
  | cons c rest ih =>
    obtain ⟨k, v⟩ := c
    have hc := Memory.wfFrom_cons.mp hm
    unfold Memory.write
    split
    · exact Memory.read_consCell_same (Memory.wfFrom_cons.mpr ⟨by omega, hc.2⟩)
    · split
      · subst a; exact Memory.read_consCell_same hc.2.2.2
      · rw [Memory.read, if_neg ‹_›]; exact ih hc.2.2.2

/-- A read returns the byte most recently written (20 R83). -/
theorem Memory.read_write_same {m : Memory} (hm : m.wf p = true) (a : Nat) (b : Byte) : (m.write p a b).read p a = b :=
  Memory.read_write_same_from b hm

/-- A write inside memory keeps the canonical form. -/
theorem Memory.wf_write {m : Memory} (hm : m.wf p = true) {a : Nat} (ha : a < p.memSize) (b : Byte) :
    (m.write p a b).wf p = true := Memory.wfFrom_write hm (Nat.zero_le _) ha

/-- Bytes written inside memory keep the canonical form. -/
theorem Memory.wf_writeBytes {m : Memory} (hm : m.wf p = true) {a : Nat} {bs : List Byte}
    (h : a + bs.length ≤ p.memSize) : (m.writeBytes p a bs).wf p = true := by
  induction bs generalizing m a with
  | nil => exact hm
  | cons b bs ih =>
    simp only [List.length_cons] at h
    exact ih (Memory.wf_write hm (by omega) b) (by omega)

/-- Bytes written from `a` on leave every address outside them alone. -/
theorem Memory.read_writeBytes_outside (m : Memory) {a a' : Nat} (bs : List Byte) (h : a' < a ∨ a + bs.length ≤ a') :
    (m.writeBytes p a bs).read p a' = m.read p a' := by
  induction bs generalizing m a with
  | nil => rfl
  | cons b bs ih =>
    simp only [List.length_cons] at h
    rw [Memory.writeBytes, ih (m.write p a b) (by omega), Memory.read_write_ne m b (by omega)]

/-- Bytes written from `a` on are read back, each at its place. -/
theorem Memory.read_writeBytes {m : Memory} (hm : m.wf p = true) {a : Nat} {bs : List Byte}
    (h : a + bs.length ≤ p.memSize) (k : Nat) (hk : k < bs.length) : (m.writeBytes p a bs).read p (a + k) = bs[k] := by
  induction bs generalizing m a k with
  | nil => simp at hk
  | cons b bs ih =>
    simp only [List.length_cons] at h hk
    rw [Memory.writeBytes]
    cases k with
    | zero =>
      exact (Memory.read_writeBytes_outside (m.write p a b) bs (by omega)).trans (Memory.read_write_same hm a b)
    | succ k =>
      have hw : (m.write p a b).wf p = true := Memory.wf_write hm (by omega) b
      have := ih hw (a := a + 1) (by omega) k (by omega)
      rw [show a + (k + 1) = a + 1 + k by omega, this]; rfl

/-- How many bytes are read. -/
@[simp] theorem Memory.length_readBytes (m : Memory) (a n : Nat) : (m.readBytes p a n).length = n := by
  induction n generalizing a with
  | zero => rfl
  | succ n ih => simp [Memory.readBytes, ih]

/-- The k-th of the bytes read is the byte at `a + k`. -/
@[simp] theorem Memory.getElem_readBytes (m : Memory) (a n k : Nat) (hk : k < (m.readBytes p a n).length) :
    (m.readBytes p a n)[k] = m.read p (a + k) := by
  induction n generalizing a k with
  | zero => simp [Memory.readBytes] at hk
  | succ n ih =>
    cases k with
    | zero => rfl
    | succ k =>
      simp only [Memory.readBytes, List.getElem_cons_succ]
      rw [ih]; congr 1; omega

/-- The cells of canonical memories that read alike are the same data. -/
theorem Memory.eq_of_read {lo : Nat} {m m' : Memory} (hm : Memory.wfFrom p lo m = true) (hm' : Memory.wfFrom p lo m' = true)
    (h : ∀ a, lo ≤ a → m.read p a = m'.read p a) : m = m' := by
  induction m generalizing lo m' with
  | nil =>
    cases m' with
    | nil => rfl
    | cons c rest =>
      obtain ⟨k, v⟩ := c
      have hc := Memory.wfFrom_cons.mp hm'
      have := h k hc.1
      simp only [Memory.read, if_true] at this
      exact absurd this.symm hc.2.2.1
  | cons c rest ih =>
    obtain ⟨k, v⟩ := c
    have hc := Memory.wfFrom_cons.mp hm
    cases m' with
    | nil =>
      have := h k hc.1
      simp only [Memory.read, if_true] at this
      exact absurd this hc.2.2.1
    | cons c' rest' =>
      obtain ⟨k', v'⟩ := c'
      have hc' := Memory.wfFrom_cons.mp hm'
      have hkk : k = k' := by
        rcases Nat.lt_trichotomy k k' with hlt | heq | hgt
        · have := h k hc.1
          rw [Memory.read_below (Memory.wfFrom_cons.mpr ⟨Nat.le_refl k', hc'.2⟩) hlt] at this
          simp only [Memory.read, if_true] at this
          exact absurd this hc.2.2.1
        · exact heq
        · have := h k' hc'.1
          rw [Memory.read_below (Memory.wfFrom_cons.mpr ⟨Nat.le_refl k, hc.2⟩) hgt] at this
          simp only [Memory.read, if_true] at this
          exact absurd this.symm hc'.2.2.1
      subst hkk
      have hv : v = v' := by simpa [Memory.read] using h k hc.1
      subst hv
      congr 1
      apply ih hc.2.2.2 hc'.2.2.2
      intro a ha
      have := h a (by omega)
      simpa [Memory.read, show a ≠ k by omega] using this

/-! Bounds -/

/-- No address of the range is outside memory. -/
theorem firstOutside_eq_none {memSize base count : Nat} :
    firstOutside memSize base count = none ↔ count = 0 ∨ base + count ≤ memSize := by
  unfold firstOutside
  split
  · simp [*]
  · split <;> simp [*]

/-- What a bounds check reports: the lowest address of the range outside memory (20 R72). -/
theorem firstOutside_eq_some {memSize base count a : Nat} :
    firstOutside memSize base count = some a ↔
      base ≤ a ∧ a < base + count ∧ memSize ≤ a ∧ ∀ k, base ≤ k → k < base + count → memSize ≤ k → a ≤ k := by
  unfold firstOutside
  split
  · simp; omega
  · split
    · simp; omega
    · simp only [Option.some.injEq]
      constructor
      · rintro rfl
        refine ⟨by omega, by omega, by omega, fun k _ _ _ => by omega⟩
      · rintro ⟨h1, h2, h3, h4⟩
        have := h4 (max base memSize) (by omega) (by omega) (by omega)
        omega

end Sys2Proof.Machine
end

