-- ==== Sys2Proof/Laws/Ops.lean ====
section
/-! SUPPORT. One lemma for each shared operation, saying everything it can do. -/

namespace Sys2Proof.Machine

/-! Flags -/

/-- What every register reads after a flag write (10 R50). -/
theorem State.getV_setFlag (s : State) (c : Bool) (r : Reg) :
    (s.setFlag c).getV r = if r = vfReg then flagByte c else s.getV r := State.getV_setV s vfReg r _

/-- What every register reads after a result and a flag are written (42 R201). -/
theorem State.getV_writeResultAndFlag (s : State) (x : Reg) (res : Byte) (flag : Bool) (r : Reg) :
    (s.writeResultAndFlag x res flag).getV r =
      match s.cfg.vfOrder with
      | .flagLast => if r = vfReg then flagByte flag else if r = x then res else s.getV r
      | .resultLast => if r = x then res else if r = vfReg then flagByte flag else s.getV r := by
  unfold State.writeResultAndFlag
  cases s.cfg.vfOrder <;> simp [State.getV_setFlag, State.getV_setV]

/-- A result and a flag write touch registers alone. -/
theorem State.writeResultAndFlag_frame (s : State) (x : Reg) (res : Byte) (flag : Bool) :
    s.writeResultAndFlag x res flag = { s with v := (s.writeResultAndFlag x res flag).v } := by
  unfold State.writeResultAndFlag; split <;> rfl

@[simp] theorem flagByte_true : flagByte true = 1 := rfl
@[simp] theorem flagByte_false : flagByte false = 0 := rfl

/-- The truncated sum is the 8-bit sum. -/
theorem sumByte_eq (a b : Byte) : sumByte a b = a + b := by
  apply BitVec.eq_of_toNat_eq; simp [sumByte, BitVec.toNat_add]

/-! The call stack -/

/-- A pop undoes a push's stack pointer. -/
theorem State.pop_push_sp (s : State) (ret : Addr) : (s.push ret).pop.sp = s.sp := rfl

/-- With room on the stack, the slot at the stack pointer is there. -/
theorem State.StackOk.sp_lt_length {s : State} (h : s.StackOk) (hr : s.sp < s.cfg.stackDepth) : s.sp < s.stack.length :=
  h.1.symm ▸ hr

/-- What was pushed on a stack with room is on top (10 R38). -/
theorem State.StackOk.top_push {s : State} (h : s.StackOk) (hr : s.sp < s.cfg.stackDepth) (ret : Addr) :
    (s.push ret).top = ret := by
  simp [State.push, State.top, h.sp_lt_length hr]

/-- On a stack that is not empty the top is the slot below the stack pointer (10 R38). -/
theorem State.StackOk.getElem?_top {s : State} (h : s.StackOk) (hne : s.sp ≠ 0) : s.stack[s.sp - 1]? = some s.top := by
  have hl : s.sp - 1 < s.stack.length := by have := h.1; have := h.2; omega
  simp [State.top, hl]

/-- A push with room keeps the shape of the stack. -/
theorem State.StackOk.push {s : State} (h : s.StackOk) (hr : s.sp < s.cfg.stackDepth) (ret : Addr) : (s.push ret).StackOk :=
  ⟨by simpa [State.push] using h.1, hr⟩

/-- A pop keeps the shape of the stack. -/
theorem State.StackOk.pop {s : State} (h : s.StackOk) : s.pop.StackOk := ⟨h.1, (Nat.sub_le _ _).trans h.2⟩

/-- The top of the stack is a slot, or 0 where there is none. -/
theorem State.top_mem_or_zero (s : State) : s.top ∈ s.stack ∨ s.top = 0 := by
  unfold State.top
  by_cases hl : s.sp - 1 < s.stack.length
  · left; simp [hl]
  · right; simp [hl]

/-! Memory -/

/-- How many bytes are read. -/
@[simp] theorem State.length_readBytes (s : State) (a n : Nat) : (s.readBytes a n).length = n :=
  Memory.length_readBytes s.mem a n

/-- The k-th of the bytes read is the byte at `a + k`. -/
@[simp] theorem State.getElem_readBytes (s : State) (a n k : Nat) (hk : k < (s.readBytes a n).length) :
    (s.readBytes a n)[k] = s.readByte (a + k) := Memory.getElem_readBytes s.mem a n k hk

/-- Bytes stored inside memory are read back, each at its place (20 R73, R83). -/
theorem State.readByte_storeBytes {s : State} (hm : s.memOk = true) {a : Nat} {bs : List Byte}
    (h : a + bs.length ≤ s.cfg.memSize) (k : Nat) (hk : k < bs.length) : (s.storeBytes a bs).readByte (a + k) = bs[k] :=
  Memory.read_writeBytes hm h k hk

/-- Bytes stored leave every address outside them alone. -/
theorem State.readByte_storeBytes_outside (s : State) {a k : Nat} (bs : List Byte) (h : k < a ∨ a + bs.length ≤ k) :
    (s.storeBytes a bs).readByte k = s.readByte k := Memory.read_writeBytes_outside s.mem bs h

/-- Bytes stored inside memory keep the canonical form. -/
theorem State.memOk_storeBytes {s : State} (hm : s.memOk = true) {a : Nat} {bs : List Byte}
    (h : a + bs.length ≤ s.cfg.memSize) : (s.storeBytes a bs).memOk = true := Memory.wf_writeBytes hm h

/-- An accepted image is in memory as stored bytes are (70 R352). -/
@[simp] theorem State.readByte_loadImage (s : State) (bytes : List Byte) (k : Nat) :
    (s.loadImage bytes).readByte k = (s.storeBytes s.cfg.progOrigin bytes).readByte k := rfl

@[simp] theorem State.memOk_loadImage (s : State) (bytes : List Byte) :
    (s.loadImage bytes).memOk = (s.storeBytes s.cfg.progOrigin bytes).memOk := rfl

/-! Register blocks -/

@[simp] theorem State.length_lowRegs (s : State) (x : Reg) : (s.lowRegs x).length = x.toNat + 1 := by
  simp [State.lowRegs]

@[simp] theorem State.getElem_lowRegs (s : State) (x : Reg) (k : Nat) (h : k < (s.lowRegs x).length) :
    (s.lowRegs x)[k] = s.getV (BitVec.ofNat 4 k) := by
  simp [State.lowRegs]

/-- A register load touches registers alone. -/
theorem State.loadRegsFrom_frame (s : State) (k : Nat) (bs : List Byte) :
    s.loadRegsFrom k bs = { s with v := (s.loadRegsFrom k bs).v } := by
  induction bs generalizing s k with
  | nil => rfl
  | cons b bs ih => rw [State.loadRegsFrom, ih]; rfl

/-- What every register reads after a register load (43 R245). -/
theorem State.getV_loadRegsFrom (s : State) (k : Nat) (bs : List Byte) (h : k + bs.length ≤ 16) (r : Reg) :
    (s.loadRegsFrom k bs).getV r =
      if hr : k ≤ r.toNat ∧ r.toNat < k + bs.length then bs[r.toNat - k]'(by omega) else s.getV r := by
  induction bs generalizing s k with
  | nil => simp [State.loadRegsFrom]
  | cons b bs ih =>
    simp only [List.length_cons] at h
    rw [State.loadRegsFrom, ih (s.setV (BitVec.ofNat 4 k) b) (k + 1) (by omega)]
    have hk : (BitVec.ofNat 4 k).toNat = k := by simp; omega
    by_cases hin : k + 1 ≤ r.toNat ∧ r.toNat < k + 1 + bs.length
    · have h2 : k ≤ r.toNat ∧ r.toNat < k + (b :: bs).length := by simp only [List.length_cons]; omega
      rw [dif_pos hin, dif_pos h2, List.getElem_cons, dif_neg (by omega)]
      congr 1
    · rw [dif_neg hin, State.getV_setV]
      by_cases he : r = BitVec.ofNat 4 k
      · have : r.toNat = k := by rw [he, hk]
        have h2 : k ≤ r.toNat ∧ r.toNat < k + (b :: bs).length := by simp only [List.length_cons]; omega
        rw [if_pos he, dif_pos h2, List.getElem_cons, dif_pos (by omega)]
      · have hne : r.toNat ≠ k := fun e => he (BitVec.eq_of_toNat_eq (e.trans hk.symm))
        have h2 : ¬ (k ≤ r.toNat ∧ r.toNat < k + (b :: bs).length) := by
          simp only [List.length_cons] at *; omega
        rw [if_neg he, dif_neg h2]

/-! Fetching -/

/-- A fetch inside memory reads two bytes, the lower address in the upper half (20 R74). -/
theorem State.fetch_word {s : State} (h : s.pc.toNat + 1 < s.cfg.memSize) :
    s.fetch = .word (wordOfBytes (s.readByte s.pc.toNat) (s.readByte (s.pc.toNat + 1))) := by
  have : firstOutside s.cfg.memSize s.pc.toNat 2 = none := firstOutside_eq_none.mpr (by omega)
  simp [State.fetch, this]

/-- A fetch that touches an address outside memory reports the lowest one (40 R146). -/
theorem State.fetch_outside {s : State} (h : s.cfg.memSize ≤ s.pc.toNat + 1) :
    s.fetch = .outside (max s.pc.toNat s.cfg.memSize) := by
  have : firstOutside s.cfg.memSize s.pc.toNat 2 = some (max s.pc.toNat s.cfg.memSize) := by
    unfold firstOutside; rw [if_neg (by decide), if_neg (by omega)]
  simp [State.fetch, this]

/-- What a successful fetch says. -/
theorem State.of_fetch_word {s : State} {w : Word} (h : s.fetch = .word w) :
    s.pc.toNat + 1 < s.cfg.memSize ∧ w = wordOfBytes (s.readByte s.pc.toNat) (s.readByte (s.pc.toNat + 1)) := by
  by_cases hp : s.pc.toNat + 1 < s.cfg.memSize
  · rw [State.fetch_word hp] at h
    exact ⟨hp, (Fetched.word.inj h).symm⟩
  · rw [State.fetch_outside (by omega)] at h; cases h

/-- The decoder on the two bytes of a word. -/
theorem decode_bytes (hi lo : Byte) (rest : List Byte) :
    decode (hi :: lo :: rest) =
      match decodeWord (wordOfBytes hi lo) with
      | .instr i => .instr i rest
      | .unknown => .unknown (wordOfBytes hi lo) rest := rfl

/-! Timers and keys -/

/-- A timer counts down by 1 and stops at 0 (10 R39). -/
theorem toNat_countDown (t : Timer) : (countDown t).toNat = t.toNat - 1 := by
  unfold countDown
  split
  · have := t.isLt
    have h1 : (1 : Timer).toNat = 1 := rfl
    rw [BitVec.toNat_sub, h1]; simp only [Config.timerWidth] at *; omega
  · omega

/-- The scan finds no key exactly when none is pressed. -/
theorem firstPressed_eq_none {keys : Keypad} : firstPressed keys = none ↔ ∀ k : Fin Config.numKeys, keys[k] = false := by
  unfold firstPressed
  rw [List.find?_eq_none]
  constructor
  · intro h k
    have := h k.val (List.mem_range.mpr k.isLt)
    have hk : k.val < 16 := k.isLt
    simpa [hk] using this
  · intro h k hk
    have hk' : k < 16 := List.mem_range.mp hk
    have := h ⟨k, hk'⟩
    simpa [hk'] using this

/-- The scan finds the lowest pressed key (40 R144). -/
theorem firstPressed_eq_some {keys : Keypad} {k : Nat} :
    firstPressed keys = some k ↔
      ∃ h : k < Config.numKeys, keys[k] = true ∧ ∀ j (hj : j < k), keys[j]'(Nat.lt_trans hj h) = false := by
  unfold firstPressed
  rw [List.find?_range_eq_some]
  constructor
  · rintro ⟨h1, h2, h3⟩
    have hk : k < 16 := List.mem_range.mp h2
    refine ⟨hk, by simpa [hk] using h1, fun j hj => ?_⟩
    have hj' : j < 16 := by omega
    have := h3 j hj
    simpa [hj'] using this
  · rintro ⟨hk, h1, h2⟩
    have hk' : k < 16 := hk
    refine ⟨by simpa [hk'] using h1, List.mem_range.mpr hk, fun j hj => ?_⟩
    have hj' : j < 16 := by omega
    have := h2 j hj
    simpa [hj'] using this

end Sys2Proof.Machine
end

