-- ==== Sys2Proof/Laws/PerInstr.lean ====
section
/-! SUPPORT. Statements about the syntax of every instruction, one lemma per constructor. -/

/-! The family TablePattern: the word of an instruction lies in its row of spec/opcode_table.json. -/

namespace Sys2Proof.Laws.TablePattern

/-- The row's `mask` and `match` in spec/opcode_table.json. -/
def row : Instr → Word × Word
  | .cls => (0xFFFF, 0x00E0)
  | .ret => (0xFFFF, 0x00EE)
  | .jp _ => (0xF000, 0x1000)
  | .call _ => (0xF000, 0x2000)
  | .seImm _ _ => (0xF000, 0x3000)
  | .sneImm _ _ => (0xF000, 0x4000)
  | .seReg _ _ => (0xF00F, 0x5000)
  | .ldImm _ _ => (0xF000, 0x6000)
  | .addImm _ _ => (0xF000, 0x7000)
  | .ldReg _ _ => (0xF00F, 0x8000)
  | .orReg _ _ => (0xF00F, 0x8001)
  | .andReg _ _ => (0xF00F, 0x8002)
  | .xorReg _ _ => (0xF00F, 0x8003)
  | .addReg _ _ => (0xF00F, 0x8004)
  | .sub _ _ => (0xF00F, 0x8005)
  | .shr _ _ => (0xF00F, 0x8006)
  | .subn _ _ => (0xF00F, 0x8007)
  | .shl _ _ => (0xF00F, 0x800E)
  | .sneReg _ _ => (0xF00F, 0x9000)
  | .ldI _ => (0xF000, 0xA000)
  | .jpV0 _ => (0xF000, 0xB000)
  | .rnd _ _ => (0xF000, 0xC000)
  | .drw _ _ _ => (0xF000, 0xD000)
  | .skp _ => (0xF0FF, 0xE09E)
  | .sknp _ => (0xF0FF, 0xE0A1)
  | .ldVxDt _ => (0xF0FF, 0xF007)
  | .ldVxK _ => (0xF0FF, 0xF00A)
  | .ldDtVx _ => (0xF0FF, 0xF015)
  | .ldStVx _ => (0xF0FF, 0xF018)
  | .addI _ => (0xF0FF, 0xF01E)
  | .ldF _ => (0xF0FF, 0xF029)
  | .ldB _ => (0xF0FF, 0xF033)
  | .stRegs _ => (0xF0FF, 0xF055)
  | .ldRegs _ => (0xF0FF, 0xF065)

/-- The word of `i` has the fixed bits of its row. -/
def Statement (i : Instr) : Prop := encode i &&& (row i).1 = (row i).2

theorem nnn_masked (op : BitVec 4) (nnn : Addr12) : encodeNnn op nnn &&& 0xF000 = encodeNnn op 0 := by
  apply BitVec.eq_of_getLsbD_eq; intro j hj
  rw [BitVec.getLsbD_and, encodeNnn_bit, encodeNnn_bit]
  interval_cases j <;> simp

theorem xkk_masked (op : BitVec 4) (x : Reg) (kk : Byte) : encodeXkk op x kk &&& 0xF000 = encodeXkk op 0 0 := by
  apply BitVec.eq_of_getLsbD_eq; intro j hj
  rw [BitVec.getLsbD_and, encodeXkk_bit, encodeXkk_bit]
  interval_cases j <;> simp

theorem x_masked (op : BitVec 4) (x : Reg) (kk : Byte) : encodeXkk op x kk &&& 0xF0FF = encodeXkk op 0 kk := by
  apply BitVec.eq_of_getLsbD_eq; intro j hj
  rw [BitVec.getLsbD_and, encodeXkk_bit, encodeXkk_bit]
  interval_cases j <;> simp

theorem xy_masked (op : BitVec 4) (x y : Reg) (n : BitVec 4) : encodeXyn op x y n &&& 0xF00F = encodeXyn op 0 0 n := by
  apply BitVec.eq_of_getLsbD_eq; intro j hj
  rw [BitVec.getLsbD_and, encodeXyn_bit, encodeXyn_bit]
  interval_cases j <;> simp

theorem xyn_masked (op : BitVec 4) (x y : Reg) (n : BitVec 4) : encodeXyn op x y n &&& 0xF000 = encodeXyn op 0 0 0 := by
  apply BitVec.eq_of_getLsbD_eq; intro j hj
  rw [BitVec.getLsbD_and, encodeXyn_bit, encodeXyn_bit]
  interval_cases j <;> simp

theorem cls : Statement .cls := by unfold Statement; decide
theorem ret : Statement .ret := by unfold Statement; decide
theorem jp (nnn : Addr12) : Statement (.jp nnn) := nnn_masked _ _
theorem call (nnn : Addr12) : Statement (.call nnn) := nnn_masked _ _
theorem seImm (x : Reg) (kk : Byte) : Statement (.seImm x kk) := xkk_masked _ _ _
theorem sneImm (x : Reg) (kk : Byte) : Statement (.sneImm x kk) := xkk_masked _ _ _
theorem seReg (x y : Reg) : Statement (.seReg x y) := xy_masked _ _ _ _
theorem ldImm (x : Reg) (kk : Byte) : Statement (.ldImm x kk) := xkk_masked _ _ _
theorem addImm (x : Reg) (kk : Byte) : Statement (.addImm x kk) := xkk_masked _ _ _
theorem ldReg (x y : Reg) : Statement (.ldReg x y) := xy_masked _ _ _ _
theorem orReg (x y : Reg) : Statement (.orReg x y) := xy_masked _ _ _ _
theorem andReg (x y : Reg) : Statement (.andReg x y) := xy_masked _ _ _ _
theorem xorReg (x y : Reg) : Statement (.xorReg x y) := xy_masked _ _ _ _
theorem addReg (x y : Reg) : Statement (.addReg x y) := xy_masked _ _ _ _
theorem sub (x y : Reg) : Statement (.sub x y) := xy_masked _ _ _ _
theorem shr (x y : Reg) : Statement (.shr x y) := xy_masked _ _ _ _
theorem subn (x y : Reg) : Statement (.subn x y) := xy_masked _ _ _ _
theorem shl (x y : Reg) : Statement (.shl x y) := xy_masked _ _ _ _
theorem sneReg (x y : Reg) : Statement (.sneReg x y) := xy_masked _ _ _ _
theorem ldI (nnn : Addr12) : Statement (.ldI nnn) := nnn_masked _ _
theorem jpV0 (nnn : Addr12) : Statement (.jpV0 nnn) := nnn_masked _ _
theorem rnd (x : Reg) (kk : Byte) : Statement (.rnd x kk) := xkk_masked _ _ _
theorem drw (x y : Reg) (n : BitVec 4) : Statement (.drw x y n) := xyn_masked _ _ _ _
theorem skp (x : Reg) : Statement (.skp x) := x_masked _ _ _
theorem sknp (x : Reg) : Statement (.sknp x) := x_masked _ _ _
theorem ldVxDt (x : Reg) : Statement (.ldVxDt x) := x_masked _ _ _
theorem ldVxK (x : Reg) : Statement (.ldVxK x) := x_masked _ _ _
theorem ldDtVx (x : Reg) : Statement (.ldDtVx x) := x_masked _ _ _
theorem ldStVx (x : Reg) : Statement (.ldStVx x) := x_masked _ _ _
theorem addI (x : Reg) : Statement (.addI x) := x_masked _ _ _
theorem ldF (x : Reg) : Statement (.ldF x) := x_masked _ _ _
theorem ldB (x : Reg) : Statement (.ldB x) := x_masked _ _ _
theorem stRegs (x : Reg) : Statement (.stRegs x) := x_masked _ _ _
theorem ldRegs (x : Reg) : Statement (.ldRegs x) := x_masked _ _ _

end Sys2Proof.Laws.TablePattern
end

