-- ==== Sys2Proof/Laws/Step.lean ====
section
/-! SUPPORT. What a step can do, said once: the three calls of the host, and the three kinds of tick. -/

namespace Sys2Proof.Machine

/-- A tick that is enabled runs its body after the tick's first two lines (40 R142, R143). -/
theorem tick_enabled {s : State} (inp : TickInput) (h : TickEnabled s) : tick inp s = tickBody (s.beginTick inp) := by
  obtain ⟨hp, hf⟩ := h
  simp [tick, hp, hf]

/-- A tick that has a next state was enabled. -/
theorem tick_next {s t : State} {inp : TickInput} (h : tick inp s = .next t) :
    TickEnabled s ∧ tickBody (s.beginTick inp) = .next t := by
  unfold tick at h
  split at h
  · cases h
  · cases h
  · exact ⟨⟨‹_›, ‹_›⟩, h⟩

/-- When the host's next move is a tick, the step is that tick. -/
theorem step_of_nextTick {s s0 : State} {inp : TickInput} (h : NextTick s inp s0) : step s = tick inp s0 := by
  rcases h with ⟨rest, hh, rfl⟩ | ⟨hh, rfl, rfl⟩ <;> simp [step, hostMove, hh, hostCall]

/-- Taking the host's move leaves a tick enabled. -/
theorem NextTick.enabled {s s0 : State} {inp : TickInput} (h : NextTick s inp s0) : TickEnabled s0 ↔ TickEnabled s := by
  rcases h with ⟨rest, _, rfl⟩ | ⟨_, _, rfl⟩ <;> rfl

/-- Taking the host's move changes the queue and the draw counter alone. -/
theorem NextTick.frame {s s0 : State} {inp : TickInput} (h : NextTick s inp s0) :
    s0 = { s with host := s0.host, draws := s0.draws } := by
  rcases h with ⟨rest, _, rfl⟩ | ⟨_, _, rfl⟩ <;> rfl

/-- Taking the host's move leaves every byte of memory as it is. -/
theorem NextTick.readByte {s s0 : State} {inp : TickInput} (h : NextTick s inp s0) (a : Nat) : s0.readByte a = s.readByte a :=
  State.readByte_congr (by rw [h.frame]) (by rw [h.frame]) a

/-- Every way a step reaches a next state. -/
theorem step_cases {s t : State} (h : step s = .next t) :
    (∃ rest, s.host = .initCore :: rest ∧ t = State.initCore { s with host := rest }) ∨
    (∃ bytes rest, s.host = .load bytes :: rest ∧ s.phase = .init ∧ t = State.load { s with host := rest } bytes) ∨
    (∃ inp s0, NextTick s inp s0 ∧ TickEnabled s ∧ tickBody (s0.beginTick inp) = .next t) := by
  unfold step hostMove at h
  split at h
  next op rest hh =>
    cases op with
    | initCore => exact .inl ⟨rest, hh, (Host.Outcome.next.inj h).symm⟩
    | load bytes =>
      simp only [hostCall] at h
      split at h
      · exact .inr (.inl ⟨bytes, rest, hh, ‹_›, (Host.Outcome.next.inj h).symm⟩)
      · cases h
    | tick inp =>
      obtain ⟨he, hb⟩ := tick_next h
      exact .inr (.inr ⟨inp, _, .inl ⟨rest, hh, rfl⟩, he, hb⟩)
  next hh =>
    obtain ⟨he, hb⟩ := tick_next h
    exact .inr (.inr ⟨_, _, .inr ⟨hh, rfl, rfl⟩, he, hb⟩)

/-- Every way the rest of a tick reaches a next state (40 R144, R145). -/
theorem tickBody_cases {s t : State} (h : tickBody s = .next t) :
    (s.keyWait = true ∧ t = s.scanKeys) ∨
    (s.keyWait = false ∧ s.cfg.memSize ≤ s.pc.toNat + 1 ∧
      t = s.decTimers.raise .fetchBounds 0 (max s.pc.toNat s.cfg.memSize)) ∨
    (s.keyWait = false ∧ s.pc.toNat + 1 < s.cfg.memSize ∧
      execWord (wordOfBytes (s.readByte s.pc.toNat) (s.readByte (s.pc.toNat + 1))) s.decTimers = .next t) := by
  unfold tickBody at h
  split at h
  · exact .inl ⟨‹_›, (Host.Outcome.next.inj h).symm⟩
  next hkw =>
    have hk : s.keyWait = false := Bool.eq_false_iff.mpr hkw
    by_cases hp : s.pc.toNat + 1 < s.cfg.memSize
    · refine .inr (.inr ⟨hk, hp, ?_⟩)
      simpa [fetchExec, State.fetch_word (s := s.decTimers) (by simpa using hp)] using h
    · refine .inr (.inl ⟨hk, by omega, ?_⟩)
      simp only [fetchExec, State.fetch_outside (s := s.decTimers) (by simpa using hp)] at h
      exact (Host.Outcome.next.inj h).symm

/-- An executing tick inside memory runs the word at PC. -/
theorem tickBody_executing {s : State} (hk : s.keyWait = false) (hp : s.pc.toNat + 1 < s.cfg.memSize) :
    tickBody s = execWord (wordOfBytes (s.readByte s.pc.toNat) (s.readByte (s.pc.toNat + 1))) s.decTimers := by
  simp [tickBody, hk, fetchExec, State.fetch_word (s := s.decTimers) (by simpa using hp)]

/-- An executing tick outside memory takes FETCH_BOUNDS. -/
theorem tickBody_outside {s : State} (hk : s.keyWait = false) (hp : s.cfg.memSize ≤ s.pc.toNat + 1) :
    tickBody s = .next (s.decTimers.raise .fetchBounds 0 (max s.pc.toNat s.cfg.memSize)) := by
  simp [tickBody, hk, fetchExec, State.fetch_outside (s := s.decTimers) (by simpa using hp)]

end Sys2Proof.Machine
end

