-- ==== Sys2Proof/Tests/Slice0.lean ====
section
/-! SUPPORT. The model's own tests: expected values are the vectors of spec/95_test_vectors.md, named by their ids, or words
written out from 30 R104; then the witnesses that the statements' hypotheses can be met. -/

namespace Sys2Proof.Tests

open Sys2Proof Sys2Proof.Machine

/-! ## Well-formedness -/

/-- A program image of 3585 bytes is refused (95 HV3). -/
theorem test_image_too_long_refused : Program.wellFormed Config.params (List.replicate 3585 0) = false := by
  rw [Program.wellFormed, List.length_replicate]; rfl

/-- A program image of 3584 bytes is accepted (95 HV2). -/
theorem test_image_longest_accepted : Program.wellFormed Config.params (List.replicate 3584 0xFF) = true := by
  rw [Program.wellFormed, List.length_replicate]; rfl

/-- A memory with falling addresses is refused. -/
theorem test_memory_unsorted_refused : Memory.wf Config.params [(0x301, 1), (0x300, 1)] = false := by decide

/-- A memory that lists an address outside the address space is refused. -/
theorem test_memory_outside_refused : Memory.wf Config.params [(4096, 1)] = false := by decide

/-- A memory that lists what an unlisted address reads as is refused. -/
theorem test_memory_redundant_refused : Memory.wf Config.params [(0x000, 0xF0)] = false := by decide

/-- A program origin outside memory is refused (log 30). -/
theorem test_params_origin_refused : { Config.params with progOrigin := 0x1001 }.ok = false := by decide

/-- A memory whose end PC cannot pass without wrapping is refused (log 30). -/
theorem test_params_memory_refused : { Config.params with memSize := 0xFFFE }.ok = false := by decide

/-- A screen narrower than a sprite row is refused (log 30). -/
theorem test_params_width_refused : { Config.params with fbW := 7 }.ok = false := by decide

/-- A screen less tall than the tallest sprite is refused (log 30). -/
theorem test_params_height_refused : { Config.params with fbH := 14 }.ok = false := by decide

/-- The spec's values are accepted, and with them the longest program is 3584 bytes (00 R8). -/
theorem test_params_spec_accepted : Config.params.ok = true ∧ Config.params.maxProgLen = 3584 := by decide

/-- No check refuses an instruction: every term is well formed (30 R102). -/
theorem test_instr_wellFormed (i : Instr) : i.wellFormed = true := by cases i <;> rfl

/-! ## Decoding: one word a constructor, written out from the patterns of 30 R104 with x = A, y = B -/

theorem test_decode_cls : decodeWord 0b0000000011100000 = .instr .cls := by decide
theorem test_decode_ret : decodeWord 0b0000000011101110 = .instr .ret := by decide
theorem test_decode_jp : decodeWord 0b0001110000000001 = .instr (.jp 0xC01) := by decide
theorem test_decode_call : decodeWord 0b0010110000000001 = .instr (.call 0xC01) := by decide
theorem test_decode_seImm : decodeWord 0b0011101011000001 = .instr (.seImm 0xA 0xC1) := by decide
theorem test_decode_sneImm : decodeWord 0b0100101011000001 = .instr (.sneImm 0xA 0xC1) := by decide
theorem test_decode_seReg : decodeWord 0b0101101010110000 = .instr (.seReg 0xA 0xB) := by decide
theorem test_decode_ldImm : decodeWord 0b0110101011000001 = .instr (.ldImm 0xA 0xC1) := by decide
theorem test_decode_addImm : decodeWord 0b0111101011000001 = .instr (.addImm 0xA 0xC1) := by decide
theorem test_decode_ldReg : decodeWord 0b1000101010110000 = .instr (.ldReg 0xA 0xB) := by decide
theorem test_decode_orReg : decodeWord 0b1000101010110001 = .instr (.orReg 0xA 0xB) := by decide
theorem test_decode_andReg : decodeWord 0b1000101010110010 = .instr (.andReg 0xA 0xB) := by decide
theorem test_decode_xorReg : decodeWord 0b1000101010110011 = .instr (.xorReg 0xA 0xB) := by decide
theorem test_decode_addReg : decodeWord 0b1000101010110100 = .instr (.addReg 0xA 0xB) := by decide
theorem test_decode_sub : decodeWord 0b1000101010110101 = .instr (.sub 0xA 0xB) := by decide
theorem test_decode_shr : decodeWord 0b1000101010110110 = .instr (.shr 0xA 0xB) := by decide
theorem test_decode_subn : decodeWord 0b1000101010110111 = .instr (.subn 0xA 0xB) := by decide
theorem test_decode_shl : decodeWord 0b1000101010111110 = .instr (.shl 0xA 0xB) := by decide
theorem test_decode_sneReg : decodeWord 0b1001101010110000 = .instr (.sneReg 0xA 0xB) := by decide
theorem test_decode_ldI : decodeWord 0b1010110000000001 = .instr (.ldI 0xC01) := by decide
theorem test_decode_jpV0 : decodeWord 0b1011110000000001 = .instr (.jpV0 0xC01) := by decide
theorem test_decode_rnd : decodeWord 0b1100101011000001 = .instr (.rnd 0xA 0xC1) := by decide
theorem test_decode_drw : decodeWord 0b1101101010110101 = .instr (.drw 0xA 0xB 0x5) := by decide
theorem test_decode_skp : decodeWord 0b1110101010011110 = .instr (.skp 0xA) := by decide
theorem test_decode_sknp : decodeWord 0b1110101010100001 = .instr (.sknp 0xA) := by decide
theorem test_decode_ldVxDt : decodeWord 0b1111101000000111 = .instr (.ldVxDt 0xA) := by decide
theorem test_decode_ldVxK : decodeWord 0b1111101000001010 = .instr (.ldVxK 0xA) := by decide
theorem test_decode_ldDtVx : decodeWord 0b1111101000010101 = .instr (.ldDtVx 0xA) := by decide
theorem test_decode_ldStVx : decodeWord 0b1111101000011000 = .instr (.ldStVx 0xA) := by decide
theorem test_decode_addI : decodeWord 0b1111101000011110 = .instr (.addI 0xA) := by decide
theorem test_decode_ldF : decodeWord 0b1111101000101001 = .instr (.ldF 0xA) := by decide
theorem test_decode_ldB : decodeWord 0b1111101000110011 = .instr (.ldB 0xA) := by decide
theorem test_decode_stRegs : decodeWord 0b1111101001010101 = .instr (.stRegs 0xA) := by decide
theorem test_decode_ldRegs : decodeWord 0b1111101001100101 = .instr (.ldRegs 0xA) := by decide

/-- The unknown words of 95 V2. -/
theorem test_decode_unknown :
    ([0x0000, 0x0123, 0x5121, 0x8128, 0x812F, 0x9121, 0xE000, 0xE19F, 0xF000, 0xF1FF, 0xFFFF] : List Word).all
      (fun w => decodeWord w == .unknown) = true := by decide

/-- The byte at the lower address is the upper half of the word (20 R74). -/
theorem test_decode_bytes : decode [0x12, 0x34, 0x56] = .instr (.jp 0x234) [0x56] := by decide

/-- One byte is no instruction. -/
theorem test_decode_short : decode [0x12] = .tooShort := by decide

/-! ## One step: the vectors of 95 part L2 -/

/-- No key pressed, random byte 0 (95, conventions). -/
def idle : TickInput := { keys := Vector.replicate 16 false, rnd := 0 }

/-- The keypad with the listed keys pressed. -/
def pressing (ks : List Nat) : TickInput := { idle with keys := Vector.ofFn fun k => ks.contains k.val }

/-- The start state of a vector: reset, a program loaded, the word at PC = 0300, one tick pending (95, conventions). -/
def bench (w : Word) : State :=
  { State.reset with phase := .run, pc := 0x300, mem := Memory.writeBytes Config.params [] 0x300 (bytesOfWord w), host := [.tick idle] }

/-- What a step makes of a state, seen through `f`. -/
def see {α : Type} (s : State) (f : State → α) : Option α :=
  match step s with
  | .next t => some (f t)
  | .fault _ => none
  | .refused _ => none

/-- The cells that are on. -/
def lit (fb : Framebuffer) : List (Nat × Nat) :=
  (List.range 32).flatMap fun r => (List.range 64).filterMap fun c => if pixel fb r c then some (r, c) else none

theorem test_V3_last_word : see { bench 0x6000 with pc := 0xFFE, mem := [(0xFFE, 0x60)] } (·.pc) = some 0x1000 := by decide
theorem test_V4_fetch_fault : see { bench 0 with pc := 0xFFF, dt := 2, st := 1 } (fun t => (t.dt, t.st, t.pc, t.fault)) =
    some (1, 0, 0xFFF, some ⟨.fetchBounds, 0xFFF, 0, 0x1000⟩) := by decide
theorem test_V5_fetch_fault : see { bench 0 with pc := 0x1000 } (·.fault) = some (some ⟨.fetchBounds, 0x1000, 0, 0x1000⟩) := by
  decide
theorem test_V8_waiting : see { bench 0x6000 with keyWait := true, waitReg := 2, dt := 5, st := 5, host := [.tick (pressing [3, 9])] }
    (fun t => (t.getV 2, t.keyWait, t.pc, t.dt, t.beep)) = some (3, false, 0x300, 5, true) := by decide
theorem test_V2_unknown : see (bench 0x5121) (fun t => (t.pc, t.changed)) = some (0x302, false) := by decide
theorem test_CT1_ret : see { bench 0x00EE with sp := 1, stack := State.reset.stack.set 0 0x206 } (fun t => (t.sp, t.pc)) =
    some (0, 0x206) := by decide
theorem test_CT2_ret_underflow : see (bench 0x00EE) (fun t => (t.pc, t.fault)) =
    some (0x300, some ⟨.stackUnderflow, 0x300, 0x00EE, 0⟩) := by decide
theorem test_CT4_jp_odd : see (bench 0x1201) (·.pc) = some 0x201 := by decide
theorem test_CT6_call : see (bench 0x2210) (fun t => (t.sp, t.stack[0]?, t.pc)) = some (1, some 0x302, 0x210) := by decide
theorem test_CT7_call_overflow : see { bench 0x2210 with sp := 48 } (fun t => (t.pc, t.fault)) =
    some (0x300, some ⟨.stackOverflow, 0x300, 0x2210, 0x30⟩) := by decide
/-- STACK_DEPTH is an argument (00 R8): with one slot the second nested call overflows (41 R172). -/
theorem test_call_depth_one :
    see { bench 0x2210 with cfg := { Config.params with stackDepth := 1 }, stack := [0x206], sp := 1 } (·.fault) =
      some (some ⟨.stackOverflow, 0x300, 0x2210, 1⟩) := by decide
/-- The stack has 48 slots at reset (00 R8, 10 R37). -/
theorem test_stack_slots : State.reset.stack.length = 48 := by decide
theorem test_CT9_seImm : see ((bench 0x3312).setV 3 0x12) (·.pc) = some 0x304 := by decide
theorem test_CT10_seImm : see ((bench 0x3312).setV 3 0x13) (·.pc) = some 0x302 := by decide
theorem test_CT11_sneImm : see (bench 0x4000) (·.pc) = some 0x302 := by decide
theorem test_CT12_sneImm : see ((bench 0x4000).setV 0 1) (·.pc) = some 0x304 := by decide
theorem test_CT14_seReg : see (((bench 0x5120).setV 1 7).setV 2 8) (·.pc) = some 0x302 := by decide
theorem test_CT15_seReg_same : see ((bench 0x5110).setV 1 9) (·.pc) = some 0x304 := by decide
theorem test_CT16_sneReg : see (((bench 0x9120).setV 1 7).setV 2 8) (·.pc) = some 0x304 := by decide
theorem test_CT17_sneReg_same : see ((bench 0x9110).setV 1 9) (·.pc) = some 0x302 := by decide
theorem test_CT19_jpV0_largest : see ((bench 0xBFFF).setV 0 0xFF) (·.pc) = some 0x10FE := by decide
theorem test_A2_ldImm : see ((bench 0x6F42).setV 15 1) (fun t => (t.getV 15, t.pc)) = some (0x42, 0x302) := by decide
theorem test_A3_addImm : see ((bench 0x7101).setV 1 0xFF) (fun t => (t.getV 1, t.getV 15)) = some (0, 1) := by decide
theorem test_A9_addImm_order : see { (bench 0x7F05).setV 15 0xFF with cfg := { Config.params with vfOrder := .resultLast } }
    (·.getV 15) = some 4 := by decide
theorem test_A10_ldReg : see ((bench 0x8120).setV 2 0x99) (fun t => (t.getV 1, t.getV 2)) = some (0x99, 0x99) := by decide
theorem test_A11_orReg : see ((((bench 0x8121).setV 1 0x0F).setV 2 0xF0).setV 15 0x55) (fun t => (t.getV 1, t.getV 15)) =
    some (0xFF, 0x55) := by decide
theorem test_A12_andReg : see (((bench 0x8122).setV 1 0x3C).setV 2 0x0F) (·.getV 1) = some 0x0C := by decide
theorem test_A13_xorReg : see (((bench 0x8123).setV 1 0xFF).setV 2 0x0F) (·.getV 1) = some 0xF0 := by decide
theorem test_A18_addReg_vf_operand : see (((bench 0x81F4).setV 1 1).setV 15 0xFF) (fun t => (t.getV 1, t.getV 15)) =
    some (0, 1) := by decide
theorem test_A19_addReg_vf_result : see (((bench 0x8F14).setV 1 0x80).setV 15 0x80) (·.getV 15) = some 1 := by decide
theorem test_A22_sub : see (((bench 0x8125).setV 1 3).setV 2 5) (fun t => (t.getV 1, t.getV 15)) = some (0xFE, 0) := by decide
theorem test_A23_sub_equal : see ((((bench 0x8125).setV 1 5).setV 2 5).setV 15 1) (fun t => (t.getV 1, t.getV 15)) =
    some (0, 0) := by decide
theorem test_A27_shr : see (((bench 0x8406).setV 4 0x80).setV 15 1) (fun t => (t.getV 4, t.getV 15)) = some (0x40, 0) := by
  decide
theorem test_A28_shr_ignores_y : see (((bench 0x8456).setV 4 4).setV 5 0xFF) (·.getV 4) = some 2 := by decide
theorem test_A31_subn : see (((bench 0x8127).setV 1 3).setV 2 5) (fun t => (t.getV 1, t.getV 15)) = some (2, 1) := by decide
theorem test_A34_shl : see ((bench 0x840E).setV 4 0x81) (fun t => (t.getV 4, t.getV 15, t.pc)) = some (2, 1, 0x302) := by
  decide
theorem test_A37_shl_no_advance : see { (bench 0x840E).setV 4 0x81 with cfg := { Config.params with shlPcAdvance := .zero } }
    (·.pc) = some 0x300 := by decide
theorem test_M2_ldI : see (bench 0xAFFF) (·.i) = some 0xFFF := by decide
theorem test_M4_addI_strict : see { (bench 0xF11E).setV 1 1 with i := 0x0EFF } (fun t => (t.i, t.getV 15)) = some (0x0F00, 0) := by
  decide
theorem test_M7_addI_wraps : see { ((bench 0xF11E).setV 1 2).setV 15 1 with i := 0xFFFF } (fun t => (t.i, t.getV 15)) =
    some (1, 0) := by decide
theorem test_M10_ldF : see ((bench 0xF029).setV 0 0xFF) (·.i) = some 0x04FB := by decide
theorem test_M15_ldB_top : see { (bench 0xF033).setV 0 0xFE with i := 0xFFD } (·.readBytes 0xFFD 3) = some [2, 5, 4] := by
  decide
theorem test_M16_ldB_fault : see { (bench 0xF033).setV 0 0xFE with i := 0xFFE } (fun t => (t.readByte 0xFFE, t.fault)) =
    some (0, some ⟨.writeBounds, 0x300, 0xF033, 0x1000⟩) := by decide
theorem test_M18_stRegs : see { (((bench 0xF255).setV 0 1).setV 1 2).setV 2 3 with i := 0x400 }
    (fun t => (t.readBytes 0x400 4, t.i)) = some ([1, 2, 3, 0], 0x400) := by decide
theorem test_M21_stRegs_fault : see { (bench 0xFF55).setV 0 1 with i := 0xFF1 } (·.fault) =
    some (some ⟨.writeBounds, 0x300, 0xFF55, 0x1000⟩) := by decide
theorem test_M22_ldRegs : see { (bench 0xF265).setV 3 0x77 with i := 0x400, mem := Memory.writeBytes Config.params (bench 0xF265).mem 0x400 [1, 2, 3, 4] }
    (fun t => (t.getV 0, t.getV 1, t.getV 2, t.getV 3)) = some (1, 2, 3, 0x77) := by decide
theorem test_M25_ldRegs_fault : see { bench 0xF065 with i := 0x1000 } (·.fault) =
    some (some ⟨.readBounds, 0x300, 0xF065, 0x1000⟩) := by decide
theorem test_DR1_cls : see { bench 0x00E0 with fb := putPixel (blankFb Config.params) 31 63 true } (fun t => (pixel t.fb 31 63, t.changed)) =
    some (false, true) := by decide
theorem test_DR6_drw_wraps : see { ((bench 0xD125).setV 1 62).setV 2 30 with i := 0x32 } (fun t => (lit t.fb, t.getV 15, t.changed)) =
    some ([(0, 0), (0, 1), (0, 62), (0, 63), (1, 1), (1, 62), (2, 1), (2, 62), (30, 0), (30, 1), (30, 62), (30, 63), (31, 1), (31, 62)],
      0, true) := by decide
theorem test_DR8_drw_collides :
    see { bench 0xD121 with i := 0x500, mem := (bench 0xD121).mem.write Config.params 0x500 0x81, fb := putPixel (blankFb Config.params) 0 7 true }
      (fun t => (lit t.fb, t.getV 15)) = some ([(0, 0)], 1) := by decide
theorem test_T1_rnd : see { bench 0xC30F with host := [.tick { idle with rnd := 0xB7 }] } (·.getV 3) = some 7 := by decide
theorem test_T4_skp : see { (bench 0xE59E).setV 5 7 with host := [.tick (pressing [7])] } (·.pc) = some 0x304 := by decide
theorem test_T6_skp_fault : see { (bench 0xE59E).setV 5 0x10 with host := [.tick (pressing [0])] } (fun t => (t.pc, t.fault)) =
    some (0x300, some ⟨.keyIndex, 0x300, 0xE59E, 0x10⟩) := by decide
theorem test_T8_sknp : see { (bench 0xE5A1).setV 5 7 with host := [.tick (pressing [7])] } (·.pc) = some 0x302 := by decide
theorem test_T9_sknp_fault : see ((bench 0xE5A1).setV 5 0xFF) (·.fault) = some (some ⟨.keyIndex, 0x300, 0xE5A1, 0xFF⟩) := by decide
theorem test_T10_ldVxDt : see { bench 0xF207 with dt := 16 } (fun t => (t.getV 2, t.dt)) = some (15, 15) := by decide
theorem test_T13_ldVxK : see { bench 0xF40A with host := [.tick (pressing [7])] } (fun t => (t.keyWait, t.waitReg, t.getV 4, t.pc)) =
    some (true, 4, 0, 0x302) := by decide
theorem test_T14_ldDtVx : see { (bench 0xF015).setV 0 3 with dt := 5 } (·.dt) = some 3 := by decide
theorem test_T16_ldStVx : see { bench 0xF018 with st := 5 } (fun t => (t.st, t.snapshot.beepOut)) = some (0, false) := by decide

/-! ## The host's calls and the fetch word -/

theorem test_HV1_initialize :
    see { (bench 0).setV 3 9 with fault := some ⟨.keyIndex, 0x300, 0xE59E, 0x10⟩, host := [.initCore] }
      (fun t => (t.getV 3, t.pc, t.fault, t.phase, t.readByte 0x4B)) = some (0, 0x200, none, .init, 0xF0) := by decide
theorem test_HV3_oversize : see { State.reset with host := [.load (List.replicate 3585 0xFF)] } (fun t => (t.phase, t.reply)) =
    some (.init, .loadTooLarge) := by
  have h : Program.wellFormed Config.params (List.replicate 3585 0xFF) = false := by rw [Program.wellFormed, List.length_replicate]; rfl
  generalize (List.replicate 3585 0xFF : List Byte) = bytes at h ⊢
  have hs : step { State.reset with host := [.load bytes] } = .next (State.reset.load bytes) := rfl
  rw [see, hs, State.load, show Program.wellFormed State.reset.cfg bytes = false from h]; rfl
theorem test_load : see { State.reset with host := [.load [0x12, 0x28]] } (fun t => (t.mem, t.phase, t.reply)) =
    some ([(0x200, 0x12), (0x201, 0x28)], .run, .loaded) := by decide

/-- The word placed for the host's question is the one that runs first after reset (log 5). -/
theorem test_fetch_word : see (State.reset.withFetchWord 16 0x6A42) (fun t => (t.getV 0xA, t.pc)) = some (0x42, 0x202) := by decide
theorem test_table_word : decodeTableWord 16 0xFA65 = some (.ldRegs 0xA) := by decide

/-- FONT is an argument (10 R47): with another font, `initialize` leaves that font's bytes in memory and 0 above them. -/
theorem test_font_argument :
    see { bench 0 with cfg := { Config.params with font := Vector.replicate 80 0xAA }, host := [.initCore] }
      (fun t => (t.readBytes 0x4E 3, t.memOk)) = some ([0xAA, 0xAA, 0], true) := by decide

/-- MEM_SIZE is an argument (93 U9): with 0x301 bytes the word at 0x300 lies half outside. -/
theorem test_memory_argument : see { bench 0x6000 with cfg := { Config.params with memSize := 0x301 } } (·.fault) =
    some (some ⟨.fetchBounds, 0x300, 0, 0x301⟩) := by decide

/-- PROG_ORIGIN is an argument (93 U9): `load` puts the program there. -/
theorem test_origin_argument :
    see { State.reset with cfg := { Config.params with progOrigin := 0x600 }, host := [.load [0x12, 0x28]] } (·.mem) =
      some [(0x600, 0x12), (0x601, 0x28)] := by decide

/-- FB_W and FB_H are arguments (93 U9): on a screen of 10 by 16 a sprite wraps at column 10 and at row 16 (44 R273). -/
theorem test_screen_argument :
    see { ((bench 0xD122).setV 1 9).setV 2 15 with
        cfg := { Config.params with fbW := 10, fbH := 16 }
        fb := blankFb { Config.params with fbW := 10, fbH := 16 }
        i := 0x500
        mem := Memory.writeBytes Config.params (bench 0xD122).mem 0x500 [0xC0, 0x80] } (fun t => (lit t.fb, t.fbOk)) =
      some ([(0, 9), (15, 0), (15, 9)], true) := by decide

/-! ## Witnesses: the hypotheses of each statement can be met -/

/-- A keypad with key 7 alone pressed. -/
def key7 : TickInput := pressing [7]

theorem witness_DecodeOfEncode : (Instr.drw 15 15 15).wellFormed = true := rfl
theorem witness_EncodeOfDecode : decodeWord 0x8FFE = .instr (.shl 15 15) := by decide
theorem witness_CallPushesOrFaults : State.reset.StackOk ∧ State.reset.sp < State.reset.cfg.stackDepth ∧
    { State.reset with sp := 47 }.StackOk ∧ { State.reset with sp := 47 }.sp < State.reset.cfg.stackDepth ∧
    { State.reset with sp := 48 }.sp = State.reset.cfg.stackDepth := ⟨⟨rfl, by decide⟩, by decide, ⟨rfl, by decide⟩, by decide, rfl⟩
theorem witness_RetPopsOrFaults : { State.reset with sp := 48 }.StackOk ∧ { State.reset with sp := 48 }.sp ≠ 0 ∧
    { State.reset with sp := 1 }.StackOk ∧ { State.reset with sp := 1 }.sp ≠ 0 ∧ State.reset.sp = 0 :=
  ⟨⟨rfl, by decide⟩, by decide, ⟨rfl, by decide⟩, by decide, rfl⟩
theorem witness_CallThenRetReturns : { State.reset with sp := 47 }.StackOk ∧ { State.reset with sp := 47 }.sp < State.reset.cfg.stackDepth :=
  ⟨⟨rfl, by decide⟩, by decide⟩
theorem witness_ResultAndFlag : State.reset.cfg.vfOrder = .flagLast ∧
    { State.reset with cfg := { Config.params with vfOrder := .resultLast } }.cfg.vfOrder = .resultLast ∧ (0xE : Reg) ≠ vfReg := by decide
theorem witness_ShiftLeftDoubles : State.reset.cfg.shlPcAdvance = .two ∧
    { State.reset with cfg := { Config.params with shlPcAdvance := .zero } }.cfg.shlPcAdvance = .zero := by decide
theorem witness_VfOrderMattersOnlyForVf : (0xE : Reg) ≠ vfReg ∧
    Instr.shl 0xE 0xF ∈ [Instr.addImm 0xE 1, .addReg 0xE 0xF, .sub 0xE 0xF, .shr 0xE 0xF, .subn 0xE 0xF, .shl 0xE 0xF] := by decide
theorem witness_BcdStoresThreeDigits : { bench 0 with i := 0xFFD }.memOk = true ∧ { bench 0 with i := 0xFFD }.effAddr 0 + 3 ≤ 4096 := by
  decide
theorem witness_DumpStoresRegisters : { bench 0 with i := 0xFF0 }.memOk = true ∧
    { bench 0 with i := 0xFF0 }.effAddr 0 + (0xF : Reg).toNat < 4096 := by decide
theorem witness_LoadReadsRegisters : { bench 0 with i := 0xFFF }.effAddr 0 + (0 : Reg).toNat < 4096 := by decide
theorem witness_DumpThenLoadRestores : { bench 0 with i := 0x400 }.memOk = true ∧
    { bench 0 with i := 0x400 }.effAddr 0 + (5 : Reg).toNat < 4096 := by decide
theorem witness_StoredWordIsFetched : { bench 0 with i := 0xFFE }.memOk = true ∧
    { bench 0 with i := 0xFFE }.effAddr 0 + (1 : Reg).toNat < 4096 ∧ 1 ≤ (1 : Reg).toNat := by decide
theorem witness_BoundsFaultsChangeNothing_bcd : 4096 < { bench 0 with i := 0xFFE }.effAddr 0 + 3 := by decide
theorem witness_BoundsFaultsChangeNothing_block : 4096 ≤ { bench 0 with i := 0xFF1 }.effAddr 0 + (0xF : Reg).toNat := by decide
theorem witness_BoundsFaultsChangeNothing_draw : (5 : BitVec 4).toNat ≠ 0 ∧
    4096 < { bench 0 with i := 0xFFC }.effAddr 0 + (5 : BitVec 4).toNat := by decide
theorem witness_DrawInvertsCoveredCells_empty : (0 : BitVec 4).toNat = 0 := by decide
theorem witness_DrawInvertsCoveredCells_top : (bench 0).cfg.ok = true ∧ { bench 0 with i := 0xFFB }.fbOk = true ∧
    { bench 0 with i := 0xFFB }.effAddr 0 + (5 : BitVec 4).toNat ≤ 4096 := by decide

/-- Glyph A's first bit lands on the first cell, which is on: the covering and the collision of DrawInvertsCoveredCells. -/
theorem witness_DrawInvertsCoveredCells_collision :
    SpriteCovers { bench 0 with i := 0x32, fb := putPixel (blankFb Config.params) 0 0 true } 0 0 5 0 0 ∧ pixel (putPixel (blankFb Config.params) 0 0 true) 0 0 = true :=
  ⟨⟨0, by decide, 0, by decide, by decide, by decide, by decide⟩, by decide⟩

/-- A sprite of zero bits covers no cell. -/
theorem witness_DrawInvertsCoveredCells_uncovered : ¬ SpriteCovers { bench 0 with i := 0x500 } 0 0 1 0 0 := by
  rintro ⟨k, hk, j, hj, h, -, -⟩
  obtain rfl : k = 0 := by omega
  have hz : (bench 0).readByte (0x500 + 0) = 0 := by decide
  have h' : ((bench 0).readByte (0x500 + 0)).getLsbD (7 - j) = true := h
  rw [hz] at h'
  have h0 : (0 : Byte).getLsbD (7 - j) = false := BitVec.getLsbD_zero
  exact absurd (h0.symm.trans h') (by decide)

/-- Glyph A at the origin of a blank screen: its first cell is covered and off, and every cell is off. -/
theorem witness_DrawTwiceErases : (bench 0).cfg.ok = true ∧ { bench 0 with i := 0x32 }.fbOk = true ∧ (1 : Reg) ≠ vfReg ∧ (2 : Reg) ≠ vfReg ∧
    { bench 0 with i := 0x32 }.effAddr 0 + (5 : BitVec 4).toNat ≤ 4096 ∧
    (∃ r c, SpriteCovers { bench 0 with i := 0x32 } 0 0 5 r c ∧ pixel { bench 0 with i := 0x32 }.fb r c = false) ∧
    ∀ r c, pixel { bench 0 with i := 0x32 }.fb r c = false :=
  ⟨by decide, by decide, by decide, by decide, by decide, ⟨0, 0, ⟨0, by decide, 0, by decide, by decide, by decide, by decide⟩, by decide⟩,
    fun r c => pixel_blankFb _ r c⟩

/-- Under AFTER_CLEAR both draws at (VF, VF) are at the origin, whatever VF held. -/
theorem witness_DrawTwiceErases_afterClear :
    { bench 0 with cfg := { Config.params with drwCoordCapture := .afterClear } }.cfg.drwCoordCapture = .afterClear ∧
    drawCoord ({ bench 0 with cfg := { Config.params with drwCoordCapture := .afterClear } }.setV 15 9) vfReg = 0 := by decide

/-- A cell of a screen that is on everywhere. -/
theorem pixel_allOn {h w r c : Nat} (hr : r < h) (hc : c < w) : pixel (List.replicate h (List.replicate w true)) r c = true := by
  simp [pixel, hr, hc]

/-- Over a screen that is on everywhere no covered cell was off, and the second draw leaves VF 0. -/
theorem witness_DrawTwiceErases_allOn : { bench 0 with fb := List.replicate 32 (List.replicate 64 true) }.fbOk = true ∧
    ¬ ∃ r c, SpriteCovers { bench 0 with fb := List.replicate 32 (List.replicate 64 true) } 0 0 5 r c ∧
      pixel (List.replicate 32 (List.replicate 64 true)) r c = false := by
  refine ⟨by decide, ?_⟩
  rintro ⟨r, c, ⟨k, hk, j, hj, -, rfl, rfl⟩, h⟩
  have hon := pixel_allOn (h := 32) (w := 64) (Nat.mod_lt (0 + k) (by decide)) (Nat.mod_lt (0 + j) (by decide))
  exact absurd (hon.symm.trans h) (by decide)
theorem witness_KeySkipsOrFaults : ((bench 0).setV 5 15 |>.getV 5).toNat < 16 ∧ 15 < ((bench 0).setV 5 16 |>.getV 5).toNat := by decide

/-- A tick pending, and a tick with free inputs. -/
theorem witness_NextTick_pending : NextTick (bench 0) idle { bench 0 with host := [] } := .inl ⟨[], rfl, rfl⟩
theorem witness_NextTick_free : NextTick { bench 0 with host := [] } (freeInput 0) { bench 0 with host := [], draws := 1 } :=
  .inr ⟨rfl, rfl, rfl⟩
theorem witness_StepRunsDecoded : NextTick (bench 0x6A42) idle { bench 0x6A42 with host := [] } ∧ TickEnabled (bench 0x6A42) ∧
    (bench 0x6A42).keyWait = false ∧ (bench 0x6A42).pc.toNat + 1 < 4096 ∧
    decode [(bench 0x6A42).readByte (bench 0x6A42).pc.toNat, (bench 0x6A42).readByte ((bench 0x6A42).pc.toNat + 1)] =
      .instr (.ldImm 0xA 0x42) [] ∧ (Instr.ldImm 0xA 0x42).wellFormed = true :=
  ⟨.inl ⟨[], rfl, rfl⟩, ⟨rfl, rfl⟩, rfl, by decide, by decide, rfl⟩
theorem witness_StepRunsUnknown : NextTick (bench 0x5121) idle { bench 0x5121 with host := [] } ∧ TickEnabled (bench 0x5121) ∧
    (bench 0x5121).keyWait = false ∧ (bench 0x5121).pc.toNat + 1 < 4096 ∧
    decode [(bench 0x5121).readByte (bench 0x5121).pc.toNat, (bench 0x5121).readByte ((bench 0x5121).pc.toNat + 1)] =
      .unknown 0x5121 [] :=
  ⟨.inl ⟨[], rfl, rfl⟩, ⟨rfl, rfl⟩, rfl, by decide, by decide⟩
theorem witness_WaitingTickScansKeys : NextTick { bench 0 with keyWait := true, host := [.tick key7] } key7
      { bench 0 with keyWait := true, host := [] } ∧ TickEnabled { bench 0 with keyWait := true, host := [.tick key7] } ∧
    { bench 0 with keyWait := true }.keyWait = true ∧ key7.keys[(7 : Fin 16)] = true ∧
    (∀ j : Fin 16, j < 7 → key7.keys[j] = false) ∧ ∀ k : Fin 16, idle.keys[k] = false :=
  ⟨.inl ⟨[], rfl, rfl⟩, ⟨rfl, rfl⟩, rfl, by decide, by decide, by decide⟩
theorem witness_AwaitKeyDelivers : TickEnabled (bench 0xF30A) ∧ key7.keys[(7 : Fin 16)] = true ∧
    ∀ j : Fin 16, j < 7 → key7.keys[j] = false := ⟨⟨rfl, rfl⟩, by decide, by decide⟩
theorem witness_FetchOutsideFaults : NextTick { bench 0 with pc := 0xFFF } idle { bench 0 with pc := 0xFFF, host := [] } ∧
    TickEnabled { bench 0 with pc := 0xFFF } ∧ { bench 0 with pc := 0xFFF }.keyWait = false ∧
    4096 ≤ { bench 0 with pc := 0xFFF }.pc.toNat + 1 := ⟨.inl ⟨[], rfl, rfl⟩, ⟨rfl, rfl⟩, rfl, by decide⟩
theorem witness_TimersCountDown : ∃ t, NextTick (bench 0x6000) idle { bench 0x6000 with host := [] } ∧ TickEnabled (bench 0x6000) ∧
    (bench 0x6000).keyWait = false ∧ step (bench 0x6000) = .next t ∧
    ∀ x, decodeWord (wordOfBytes ((bench 0x6000).readByte (bench 0x6000).pc.toNat)
      ((bench 0x6000).readByte ((bench 0x6000).pc.toNat + 1))) ≠ .instr (.ldDtVx x) ∧
      decodeWord (wordOfBytes ((bench 0x6000).readByte (bench 0x6000).pc.toNat)
      ((bench 0x6000).readByte ((bench 0x6000).pc.toNat + 1))) ≠ .instr (.ldStVx x) :=
  ⟨_, .inl ⟨[], rfl, rfl⟩, ⟨rfl, rfl⟩, rfl, rfl, by decide⟩
theorem witness_NoStepOutsideTheProtocol_halted : NextTick { bench 0 with fault := some ⟨.fetchBounds, 0x300, 0, 0x1000⟩ } idle
      { bench 0 with fault := some ⟨.fetchBounds, 0x300, 0, 0x1000⟩, host := [] } ∧ (bench 0).phase = .run ∧
    { bench 0 with fault := some ⟨.fetchBounds, 0x300, 0, 0x1000⟩ }.fault ≠ none :=
  ⟨.inl ⟨[], rfl, rfl⟩, rfl, by decide⟩
theorem witness_NoStepOutsideTheProtocol_early : NextTick State.reset (freeInput 0) { State.reset with draws := 1 } ∧
    State.reset.phase = .init := ⟨.inr ⟨rfl, rfl, rfl⟩, rfl⟩
theorem witness_NoStepOutsideTheProtocol_twice : { bench 0 with host := [.load []] }.host = .load [] :: [] ∧ (bench 0).phase = .run :=
  ⟨rfl, rfl⟩
theorem witness_InitializeResets : { bench 0 with host := [.initCore, .tick idle] }.host = .initCore :: [.tick idle] := rfl
theorem witness_LoadCopiesProgram : { State.reset with host := [.load (List.replicate 3584 0xFF)] }.host =
      .load (List.replicate 3584 0xFF) :: [] ∧ State.reset.phase = .init ∧ State.reset.memOk = true ∧
    (List.replicate 3584 (0xFF : Byte)).length ≤ 3584 := ⟨rfl, rfl, rfl, List.length_replicate.le⟩
theorem witness_OversizeLoadIsRejected : { State.reset with host := [.load (List.replicate 3585 0xFF)] }.host =
      .load (List.replicate 3585 0xFF) :: [] ∧ State.reset.phase = .init ∧ 3584 < (List.replicate 3585 (0xFF : Byte)).length :=
  ⟨rfl, rfl, by rw [List.length_replicate]; decide⟩
theorem witness_BootRunsFirstWord : (List.replicate 3582 (0xFF : Byte)).length + 2 ≤ 3584 := by
  rw [List.length_replicate]

/-- The stack of a bench state has the shape of 10 R37, and its slots are 0. -/
theorem bench_stackOk (w : Word) : (bench w).StackOk := ⟨List.length_replicate, Nat.zero_le _⟩
theorem bench_slots (w : Word) : ∀ a ∈ (bench w).stack, a.toNat ≤ (bench w).cfg.memSize := fun a h => by
  rw [List.eq_of_mem_replicate h]; exact Nat.zero_le _

/-- A state off the reset state that meets the invariant, and its step. -/
theorem witness_StepKeepsInvariant : ∃ t, (bench 0x6A42).Inv ∧ step (bench 0x6A42) = .next t :=
  ⟨_, ⟨by decide, by decide, by decide, bench_stackOk _, by decide, bench_slots _, by intro f h; cases h⟩, rfl⟩

/-- A state with a fault latched that meets the invariant: its last clause is not empty. -/
theorem witness_StepKeepsInvariant_faulted :
    { bench 0 with fault := some ⟨.stackUnderflow, 0x300, 0x00EE, 0⟩, host := [.initCore] }.Inv ∧
    ∃ t, step { bench 0 with fault := some ⟨.stackUnderflow, 0x300, 0x00EE, 0⟩, host := [.initCore] } = .next t :=
  ⟨⟨by decide, by decide, by decide, bench_stackOk 0, by decide, bench_slots 0, by rintro f h; cases h; exact ⟨rfl, rfl, rfl⟩⟩, _, rfl⟩
theorem witness_FaultsArePrecise : ∃ t, exec .ret (bench 0) = .next t ∧ t.fault ≠ (bench 0).fault := ⟨_, rfl, by decide⟩
theorem witness_OnlyEightInstructionsFault : ∃ t, exec (.skp 0) ((bench 0).setV 0 16) = .next t ∧
    t.fault ≠ ((bench 0).setV 0 16).fault := ⟨_, rfl, by decide⟩
theorem witness_OnlyClsAndDrwDraw : ∃ t, exec .cls (bench 0) = .next t ∧ t.changed ≠ (bench 0).changed := ⟨_, rfl, by decide⟩
theorem witness_OnlyThreeInstructionsWriteIndex : ∃ t, exec (.ldI 0x300) (bench 0) = .next t ∧ t.i ≠ (bench 0).i := ⟨_, rfl, by decide⟩
theorem witness_OnlyCallAndRetUseStack : ∃ t, exec (.call 0x300) (bench 0) = .next t ∧ t.stack[0]? ≠ (bench 0).stack[0]? ∧
    t.sp ≠ (bench 0).sp := ⟨_, rfl, by decide, by decide⟩
theorem witness_OnlyTwoInstructionsStore : ∃ t, exec (.ldB 0) { bench 0 with i := 0x32 } = .next t ∧ t.mem ≠ (bench 0).mem :=
  ⟨_, rfl, by decide⟩
theorem witness_OnlyNamedInstructionsWriteVf : ∃ t, exec (.addImm 1 1) ((bench 0).setV 1 0xFF) = .next t ∧
    t.getV vfReg ≠ ((bench 0).setV 1 0xFF).getV vfReg := ⟨_, rfl, by decide⟩
theorem witness_PcParityChangesOnlyAtTransfers : ∃ t, exec (.jp 0x201) (bench 0) = .next t ∧
    t.pc.toNat % 2 ≠ (bench 0).pc.toNat % 2 := ⟨_, rfl, by decide⟩
theorem witness_InputsReadOnlyByNamedInstructions : ∃ t, exec .cls (bench 0) = .next t ∧ (∀ x kk, Instr.cls ≠ .rnd x kk) ∧
    (∀ x, Instr.cls ≠ .skp x) ∧ ∀ x, Instr.cls ≠ .sknp x :=
  ⟨_, rfl, fun _ _ => Instr.noConfusion, fun _ => Instr.noConfusion, fun _ => Instr.noConfusion⟩
theorem witness_StepKeepsParametersAndPhase : ∃ t, step { bench 0 with host := [.initCore] } = .next t ∧ (bench 0).phase = .run ∧
    t.phase ≠ .run := ⟨_, rfl, rfl, by decide⟩
theorem witness_SelfJumpAndStuckShiftHang : NextTick (bench 0x1300) idle { bench 0x1300 with host := [] } ∧ TickEnabled (bench 0x1300) ∧
    (bench 0x1300).keyWait = false ∧ (bench 0x1300).pc.toNat + 1 < 4096 ∧
    decode [(bench 0x1300).readByte (bench 0x1300).pc.toNat, (bench 0x1300).readByte ((bench 0x1300).pc.toNat + 1)] =
      .instr (.jp 0x300) [] ∧ (0x300 : Addr12).toNat = (bench 0x1300).pc.toNat :=
  ⟨.inl ⟨[], rfl, rfl⟩, ⟨rfl, rfl⟩, rfl, by decide, by decide, rfl⟩
theorem witness_SelfJumpAndStuckShiftHang_shift :
    decode [(bench 0x840E).readByte (bench 0x840E).pc.toNat, (bench 0x840E).readByte ((bench 0x840E).pc.toNat + 1)] =
      .instr (.shl 4 0) [] ∧
    { bench 0x840E with cfg := { Config.params with shlPcAdvance := .zero } }.cfg.shlPcAdvance = .zero ∧
    TickEnabled { bench 0x840E with cfg := { Config.params with shlPcAdvance := .zero } } := ⟨by decide, rfl, rfl, rfl⟩

end Sys2Proof.Tests
end

section
/-! PROOFS. Jumps and skips (41_control_flow.md): each is one write of PC, so one frame lemma serves them all. -/

namespace Sys2Proof.Machine

variable {s : State}

/-! What each instruction answers -/

@[simp] theorem exec_jp (nnn : Addr12) : exec (.jp nnn) s = .next (s.setPc (zext16 nnn)) := rfl
@[simp] theorem exec_jpV0 (nnn : Addr12) : exec (.jpV0 nnn) s = .next (s.setPc (zext16 (s.getV 0) + zext16 nnn)) := rfl
@[simp] theorem exec_seImm (x : Reg) (kk : Byte) : exec (.seImm x kk) s = .next (s.skipIf (s.getV x == kk)) := rfl
@[simp] theorem exec_sneImm (x : Reg) (kk : Byte) : exec (.sneImm x kk) s = .next (s.skipIf (s.getV x != kk)) := rfl
@[simp] theorem exec_seReg (x y : Reg) : exec (.seReg x y) s = .next (s.skipIf (s.getV x == s.getV y)) := rfl
@[simp] theorem exec_sneReg (x y : Reg) : exec (.sneReg x y) s = .next (s.skipIf (s.getV x != s.getV y)) := rfl

/-! The frame of a write of PC -/

@[simp] theorem onlyPc_setPc (target : Addr) : OnlyPc s (s.setPc target) := ⟨rfl, State.readByte_setPc s target⟩
@[simp] theorem onlyPc_skipIf (c : Bool) : OnlyPc s (s.skipIf c) := onlyPc_setPc _

/-! The targets, as numbers -/

/-- A value no wider than an address keeps its number when it becomes one. -/
theorem toNat_zext16 {n : Nat} (hn : n ≤ Config.addrWidth) (b : BitVec n) : (zext16 b).toNat = b.toNat :=
  BitVec.toNat_setWidth_of_le hn

/-- The target of JP V0 is at most 0xFF + 0xFFF, so the 16-bit sum does not wrap (41 R177). -/
theorem toNat_zext16_add_zext16 (b : Byte) (nnn : Addr12) : (zext16 b + zext16 nnn).toNat = b.toNat + nnn.toNat := by
  have hb : b.toNat < 256 := b.isLt
  have hn : nnn.toNat < 4096 := nnn.isLt
  rw [BitVec.toNat_add, toNat_zext16 (by decide), toNat_zext16 (by decide), two_pow_addrWidth]
  exact Nat.mod_eq_of_lt (by omega)

/-- An instruction that answers a skip on the test `c` moves PC as the condition `P` says, where `c` decides `P`, and changes
nothing else. -/
theorem exec_skips_of_iff {i : Instr} {c : Bool} {P : Prop} [Decidable P] (hi : exec i s = .next (s.skipIf c)) (hc : c = true ↔ P) :
    ∃ t, exec i s = .next t ∧ t.pc = (if P then s.pc + 4 else s.pc + 2) ∧ OnlyPc s t :=
  ⟨s.skipIf c, hi, by simp only [State.skipIf_pc, hc], onlyPc_skipIf c⟩

/-- Settles O5: both jumps are one write of PC, and neither target wraps. -/
theorem jumpsSetPc : Obligations.JumpsSetPc := by
  intro nnn s
  constructor
  · exact ⟨_, exec_jp nnn, toNat_zext16 (by decide) nnn, onlyPc_setPc _⟩
  · exact ⟨_, exec_jpV0 nnn, toNat_zext16_add_zext16 _ nnn, onlyPc_setPc _⟩

/-- Settles O9: both are skips, on the byte test for equality and on its negation. -/
theorem immediateSkips : Obligations.ImmediateSkips := by
  intro x kk s
  constructor
  · exact exec_skips_of_iff (exec_seImm x kk) beq_iff_eq
  · exact exec_skips_of_iff (exec_sneImm x kk) bne_iff_ne

/-- Settles O10: the same two tests, on two registers. -/
theorem registerSkips : Obligations.RegisterSkips := by
  intro x y s
  constructor
  · exact exec_skips_of_iff (exec_seReg x y) beq_iff_eq
  · exact exec_skips_of_iff (exec_sneReg x y) bne_iff_ne

end Sys2Proof.Machine
end

section
/-! PROOFS. Loads and the 8-bit ALU (42_alu.md): each is one register write, or one write of a result and a flag, and then a
write of PC, so one frame lemma for each of the two forms serves them all. -/

namespace Sys2Proof.Machine

variable {s : State}

/-! What each instruction answers -/

@[simp] theorem exec_ldImm (x : Reg) (kk : Byte) : exec (.ldImm x kk) s = .next (s.setV x kk).advance := rfl
@[simp] theorem exec_ldReg (x y : Reg) : exec (.ldReg x y) s = .next (s.setV x (s.getV y)).advance := rfl
@[simp] theorem exec_orReg (x y : Reg) : exec (.orReg x y) s = .next (s.setV x (s.getV x ||| s.getV y)).advance := rfl
@[simp] theorem exec_andReg (x y : Reg) : exec (.andReg x y) s = .next (s.setV x (s.getV x &&& s.getV y)).advance := rfl
@[simp] theorem exec_xorReg (x y : Reg) : exec (.xorReg x y) s = .next (s.setV x (s.getV x ^^^ s.getV y)).advance := rfl
@[simp] theorem exec_addImm (x : Reg) (kk : Byte) :
    exec (.addImm x kk) s = .next (s.writeResultAndFlag x (sumByte (s.getV x) kk) (carryOut (s.getV x) kk)).advance := rfl
@[simp] theorem exec_addReg (x y : Reg) :
    exec (.addReg x y) s =
      .next (s.writeResultAndFlag x (sumByte (s.getV x) (s.getV y)) (carryOut (s.getV x) (s.getV y))).advance := rfl
@[simp] theorem exec_sub (x y : Reg) :
    exec (.sub x y) s =
      .next (s.writeResultAndFlag x (s.getV x - s.getV y) (strictlyGreater (s.getV x) (s.getV y))).advance := rfl
@[simp] theorem exec_shr (x y : Reg) :
    exec (.shr x y) s = .next (s.writeResultAndFlag x (s.getV x >>> 1) (shiftedOutRight (s.getV x))).advance := rfl
@[simp] theorem exec_subn (x y : Reg) :
    exec (.subn x y) s =
      .next (s.writeResultAndFlag x (s.getV y - s.getV x) (strictlyGreater (s.getV y) (s.getV x))).advance := rfl

/-! The frames of the two forms -/

/-- One register write and a write of PC change that register and PC alone. -/
theorem onlyRegs_setV_setPc (x : Reg) (b : Byte) (target : Addr) : OnlyRegs s ((s.setV x b).setPc target) [x] := by
  refine ⟨rfl, fun r hr => ?_, fun a => State.readByte_congr rfl rfl a⟩
  rw [State.getV_setPc, State.getV_setV_ne s x r b (List.ne_of_not_mem_cons hr)]

/-- A write of a result and a flag and a write of PC change the two registers and PC alone. -/
theorem onlyRegs_writeResultAndFlag_setPc (x : Reg) (res : Byte) (flag : Bool) (target : Addr) :
    OnlyRegs s ((s.writeResultAndFlag x res flag).setPc target) [x, vfReg] := by
  refine ⟨by rw [State.writeResultAndFlag_frame]; rfl, fun r hr => ?_, fun a => by simp⟩
  obtain ⟨hx, hvf⟩ : r ≠ x ∧ r ≠ vfReg := by simpa using hr
  rw [State.getV_setPc, State.getV_writeResultAndFlag]
  cases s.cfg.vfOrder <;> simp only [if_neg hx, if_neg hvf]

/-- A write of a result and a flag, then of PC, is what 42 R201 asks of it, under either setting of `VF_ORDER`. -/
theorem resultAndFlag_writeResultAndFlag_setPc (x : Reg) (res : Byte) (flag : Bool) (target : Addr) :
    ResultAndFlag s ((s.writeResultAndFlag x res flag).setPc target) x res (flagByte flag) := by
  refine ⟨fun hOrder => ?_, fun hOrder => ?_, onlyRegs_writeResultAndFlag_setPc x res flag target⟩
  · simp +contextual [State.getV_writeResultAndFlag, hOrder]
  · simp +contextual [State.getV_writeResultAndFlag, hOrder, eq_comm]

/-- An instruction that answers a write of the result `r` and the flag `c`, then the default advance, does what 42 R201 asks for
any result and flag byte equal to them. -/
theorem exec_writesResultAndFlag {i : Instr} {x : Reg} {r res flag : Byte} {c : Bool}
    (hi : exec i s = .next (s.writeResultAndFlag x r c).advance) (hr : r = res) (hc : flagByte c = flag) :
    ∃ t, exec i s = .next t ∧ t.pc = s.pc + 2 ∧ ResultAndFlag s t x res flag := by
  subst hr hc
  exact ⟨_, hi, by simp only [State.advance_pc, State.writeResultAndFlag_pc], resultAndFlag_writeResultAndFlag_setPc x r c _⟩

/-! The results and flags, as numbers -/

/-- The carry as a byte (42 R200). -/
theorem flagByte_carryOut (a b : Byte) : flagByte (carryOut a b) = if 0xFF < a.toNat + b.toNat then 1 else 0 := by
  simp [flagByte, carryOut]

/-- The not-borrow flag as a byte (42 R211). -/
theorem flagByte_strictlyGreater (a b : Byte) : flagByte (strictlyGreater a b) = if b.toNat < a.toNat then 1 else 0 := by
  simp [flagByte, strictlyGreater]

/-- The bit a right shift moves out, as a byte, is the remainder of halving (42 R212). -/
theorem flagByte_shiftedOutRight (a : Byte) : flagByte (shiftedOutRight a) = BitVec.ofNat 8 (a.toNat % 2) := by
  rcases Nat.mod_two_eq_zero_or_one a.toNat with h | h <;>
    simp [flagByte, shiftedOutRight, BitVec.getLsbD, h]

/-- The 8-bit difference is the unbounded one, 256 above it so that it does not go below 0, modulo 256 (42 R200). -/
theorem sub_eq_ofNat (a b : Byte) : a - b = BitVec.ofNat 8 (256 + a.toNat - b.toNat) := by
  apply BitVec.eq_of_toNat_eq
  have hb : b.toNat < 256 := b.isLt
  rw [BitVec.toNat_sub, BitVec.toNat_ofNat]
  congr 1
  omega

/-- A right shift by 1 halves, rounded down (42 R212). -/
theorem ushiftRight_one_eq_ofNat (a : Byte) : a >>> 1 = BitVec.ofNat 8 (a.toNat / 2) := by
  apply BitVec.eq_of_toNat_eq
  have ha : a.toNat < 256 := a.isLt
  rw [BitVec.toNat_ushiftRight, Nat.shiftRight_one, BitVec.toNat_ofNat]
  exact (Nat.mod_eq_of_lt (by omega)).symm

/-- Settles O11: each is one register write, of `kk` or of the old V[y]. -/
theorem loadsAndMoves : Obligations.LoadsAndMoves := by
  intro x y kk s
  constructor
  · exact ⟨_, exec_ldImm x kk, State.getV_setV_same s x kk, rfl, onlyRegs_setV_setPc x kk _⟩
  · exact ⟨_, exec_ldReg x y, State.getV_setV_same s x _, rfl, onlyRegs_setV_setPc x _ _⟩

/-- Settles O12: each is one register write, of a byte whose bits are the OR, AND or XOR of the operands' bits. -/
theorem logicHasNoFlag : Obligations.LogicHasNoFlag := by
  intro x y s
  refine ⟨⟨_, exec_orReg x y, rfl, onlyRegs_setV_setPc x _ _, fun j _ => ?or⟩,
    ⟨_, exec_andReg x y, rfl, onlyRegs_setV_setPc x _ _, fun j _ => ?and⟩,
    ⟨_, exec_xorReg x y, rfl, onlyRegs_setV_setPc x _ _, fun j _ => ?xor⟩⟩
  case or => rw [State.getV_advance, State.getV_setV_same, BitVec.getLsbD_or]
  case and => rw [State.getV_advance, State.getV_setV_same, BitVec.getLsbD_and]
  case xor => rw [State.getV_advance, State.getV_setV_same, BitVec.getLsbD_xor]

/-- Settles O13: both write the 8-bit sum of their operands and its carry. -/
theorem addWritesCarry : Obligations.AddWritesCarry := by
  intro x y kk s
  constructor
  · exact exec_writesResultAndFlag (exec_addImm x kk) (sumByte_eq _ _) (flagByte_carryOut _ _)
  · exact exec_writesResultAndFlag (exec_addReg x y) (sumByte_eq _ _) (flagByte_carryOut _ _)

/-- Settles O14: both write an 8-bit difference and the strict comparison of its operands, SUBN with the operands exchanged. -/
theorem subtractFlagIsStrict : Obligations.SubtractFlagIsStrict := by
  intro x y s
  constructor
  · exact exec_writesResultAndFlag (exec_sub x y) (sub_eq_ofNat _ _) (flagByte_strictlyGreater _ _)
  · exact exec_writesResultAndFlag (exec_subn x y) (sub_eq_ofNat _ _) (flagByte_strictlyGreater _ _)

/-- Settles O15: the quotient and the remainder of V[x] by 2 are its right shift and the bit shifted out. -/
theorem shiftRightHalves : Obligations.ShiftRightHalves := by
  intro x y s
  exact exec_writesResultAndFlag (exec_shr x y) (ushiftRight_one_eq_ofNat _) (flagByte_shiftedOutRight _)

end Sys2Proof.Machine
end

section
/-! PROOFS. Loads of the index register (43_index_memory.md): each is one write of I and then a write of PC, so one frame lemma
serves them all. -/

namespace Sys2Proof.Machine

variable {s : State}

/-! What each instruction answers -/

@[simp] theorem exec_ldI (nnn : Addr12) : exec (.ldI nnn) s = .next (s.setI (zext16 nnn)).advance := rfl
@[simp] theorem exec_ldF (x : Reg) :
    exec (.ldF x) s =
      .next (s.setI (BitVec.ofNat Config.addrWidth (Config.fontBase + (s.getV x).toNat * Config.glyphBytes))).advance := rfl

/-- The glyph address of a byte is at most 5 * 0xFF, so the 16-bit product does not wrap (43 R242). -/
theorem toNat_glyphAddr (b : Byte) :
    (BitVec.ofNat Config.addrWidth (Config.fontBase + b.toNat * Config.glyphBytes)).toNat = b.toNat * 5 := by
  have hb : b.toNat < 256 := b.isLt
  rw [BitVec.toNat_ofNat, two_pow_addrWidth, Config.fontBase, Config.glyphBytes, Nat.zero_add]
  exact Nat.mod_eq_of_lt (by omega)

/-- An instruction that answers a write of `a` to I, then the default advance, leaves the number of `a` in I and changes nothing
but I and PC. -/
theorem exec_writesIndex {i : Instr} {a : Addr} {n : Nat} (hi : exec i s = .next (s.setI a).advance) (ha : a.toNat = n) :
    ∃ t, exec i s = .next t ∧ t.i.toNat = n ∧ t.pc = s.pc + 2 ∧ t = { s with i := t.i, pc := t.pc } ∧ MemSame s t := by
  refine ⟨_, hi, ?index, ?pc, rfl, fun k => ?mem⟩
  case index => rw [State.advance_i, State.setI_i, ha]
  case pc => rw [State.advance_pc, State.setI_pc]
  case mem => rw [State.readByte_advance, State.readByte_setI]

/-- Settles O18: each is one write of I, of `nnn` or of the glyph address of V[x], and neither number wraps. -/
theorem loadIndex : Obligations.LoadIndex := by
  intro nnn x s
  constructor
  · exact exec_writesIndex (exec_ldI nnn) (toNat_zext16 (by decide) nnn)
  · exact exec_writesIndex (exec_ldF x) (toNat_glyphAddr (s.getV x))

end Sys2Proof.Machine
end

section
/-! PROOFS. Clear screen (44_display.md): one write of the framebuffer and `changed`, and then a write of PC. -/

namespace Sys2Proof.Machine

variable {s : State}

@[simp] theorem exec_cls : exec .cls s = .next ({ s with fb := blankFb s.cfg, changed := true } : State).advance := rfl

/-- Settles O26: CLS writes the blank framebuffer, whatever was on the screen, and memory is no part of what it writes. -/
theorem clearScreenBlanks : Obligations.ClearScreenBlanks := by
  intro s
  refine ⟨_, exec_cls, fun r c => ?cell, ?shape, ?changed, ?pc, rfl, fun a => ?mem⟩
  case cell => rw [State.advance_fb, pixel_blankFb]
  case shape => rw [State.fbOk_advance, State.fbOk, fbShaped_blankFb]
  case changed => rw [State.advance_changed]
  case pc => rw [State.advance_pc]
  case mem => exact State.readByte_congr rfl rfl a

end Sys2Proof.Machine
end

section
/-! PROOFS. The encoding (30_encoding.md): the decoder on the word of each pattern, a word put together again from its fields, and
the unknown words group by group. -/

namespace Sys2Proof.Machine

/-! The decoder on a word of each group whose low part is decoded further -/

@[simp] theorem decodeWord_encodeXyn_five (x y : Reg) (n : BitVec 4) :
    decodeWord (encodeXyn 0x5#4 x y n) = decodeIfZero n (.seReg x y) := by simp [decodeWord]
@[simp] theorem decodeWord_encodeXyn_eight (x y : Reg) (n : BitVec 4) :
    decodeWord (encodeXyn 0x8#4 x y n) = decodeAlu x y n := by simp [decodeWord]
@[simp] theorem decodeWord_encodeXyn_nine (x y : Reg) (n : BitVec 4) :
    decodeWord (encodeXyn 0x9#4 x y n) = decodeIfZero n (.sneReg x y) := by simp [decodeWord]
@[simp] theorem decodeWord_encodeXkk_key (x : Reg) (kk : Byte) :
    decodeWord (encodeXkk 0xE#4 x kk) = decodeKey x kk := by simp [decodeWord]
@[simp] theorem decodeWord_encodeXkk_misc (x : Reg) (kk : Byte) :
    decodeWord (encodeXkk 0xF#4 x kk) = decodeMisc x kk := by simp [decodeWord]

/-- The decoder gives every instruction back from its word. -/
theorem decodeWord_encode (i : Instr) : decodeWord (encode i) = .instr i := by
  cases i with
  | cls | ret => decide
  | jp | call | seImm | sneImm | ldImm | addImm | ldI | jpV0 | rnd | drw => simp [encode, decodeWord]
  | seReg | sneReg => simp [encode, decodeIfZero]
  | ldReg | orReg | andReg | xorReg | addReg | sub | shr | subn | shl => simp [encode, decodeAlu]
  | skp | sknp => simp [encode, decodeKey]
  | ldVxDt | ldVxK | ldDtVx | ldStVx | addI | ldF | ldB | stRegs | ldRegs => simp [encode, decodeMisc]

/-- The decoder reads the two bytes of a word as that word. -/
theorem decode_bytesOfWord {w : Word} {i : Instr} (h : decodeWord w = .instr i) : decode (bytesOfWord w) = .instr i [] := by
  rw [bytesOfWord, decode_bytes, wordOfBytes_bytes, h]

/-- Settles O1: each pattern's fields are read back, and the low part picks the instruction. -/
theorem decodeOfEncode : Obligations.DecodeOfEncode := fun i _ =>
  ⟨decodeWord_encode i, decode_bytesOfWord (decodeWord_encode i)⟩

/-! A word is made of its fields -/

theorem encodeNnn_of_opField {w : Word} {op : BitVec 4} (hop : opField w = op) : encodeNnn op (nnnField w) = w := by
  subst hop
  apply BitVec.eq_of_getLsbD_eq
  intro j hj
  rw [encodeNnn_bit]
  split
  · simp [nnnField, *]
  · simp [opField, show 12 + (j - 12) = j by omega]; omega

theorem encodeXkk_of_opField {w : Word} {op : BitVec 4} (hop : opField w = op) :
    encodeXkk op (xField w) (kkField w) = w := by
  subst hop
  apply BitVec.eq_of_getLsbD_eq
  intro j hj
  rw [encodeXkk_bit]
  split
  · simp [kkField, *]
  split
  · simp [xField, show 8 + (j - 8) = j by omega]; omega
  · simp [opField, show 12 + (j - 12) = j by omega]; omega

theorem encodeXyn_of_opField {w : Word} {op n : BitVec 4} (hop : opField w = op) (hn : nField w = n) :
    encodeXyn op (xField w) (yField w) n = w := by
  subst hop hn
  apply BitVec.eq_of_getLsbD_eq
  intro j hj
  rw [encodeXyn_bit]
  split
  · simp [nField, *]
  split
  · simp [yField, show 4 + (j - 4) = j by omega]; omega
  split
  · simp [xField, show 8 + (j - 8) = j by omega]; omega
  · simp [opField, show 12 + (j - 12) = j by omega]; omega

/-! The word of an instruction the decoder of a group answers -/

theorem encode_of_decodeZero {w : Word} {i : Instr} (h : decodeZero w = .instr i) : encode i = w := by
  unfold decodeZero at h
  split at h <;> cases h <;> rfl

theorem eq_of_decodeIfZero {n : BitVec 4} {i j : Instr} (h : decodeIfZero n j = .instr i) : n = 0 ∧ i = j := by
  unfold decodeIfZero at h
  split at h <;> cases h
  exact ⟨rfl, rfl⟩

theorem encode_of_decodeAlu {x y : Reg} {n : BitVec 4} {i : Instr} (h : decodeAlu x y n = .instr i) :
    encode i = encodeXyn 0x8 x y n := by
  unfold decodeAlu at h
  split at h <;> cases h <;> rfl

theorem encode_of_decodeKey {x : Reg} {kk : Byte} {i : Instr} (h : decodeKey x kk = .instr i) :
    encode i = encodeXkk 0xE x kk := by
  unfold decodeKey at h
  split at h <;> cases h <;> rfl

theorem encode_of_decodeMisc {x : Reg} {kk : Byte} {i : Instr} (h : decodeMisc x kk = .instr i) :
    encode i = encodeXkk 0xF x kk := by
  unfold decodeMisc at h
  split at h <;> cases h <;> rfl

/-- A 4-bit value that is none of the first fifteen is the last. -/
theorem eq_fifteen_of_forall_ne {op : BitVec 4} (h : ∀ k < 15, op ≠ BitVec.ofNat 4 k) : op = 0xF := by
  by_contra hne
  have hlt : op.toNat < 15 := by bv_omega
  exact h op.toNat hlt (by simp)

/-- A word that decodes is the word of what it decodes to. -/
theorem encode_of_decodeWord {w : Word} {i : Instr} (h : decodeWord w = .instr i) : encode i = w := by
  unfold decodeWord at h
  split at h
  case h_1 => exact encode_of_decodeZero h
  case h_2 hop | h_3 hop | h_11 hop | h_12 hop => cases h; exact encodeNnn_of_opField hop
  case h_4 hop | h_5 hop | h_7 hop | h_8 hop | h_13 hop => cases h; exact encodeXkk_of_opField hop
  case h_6 hop | h_10 hop =>
    obtain ⟨hn, rfl⟩ := eq_of_decodeIfZero h
    exact encodeXyn_of_opField hop hn
  case h_9 hop => exact (encode_of_decodeAlu h).trans (encodeXyn_of_opField hop rfl)
  case h_14 hop => cases h; exact encodeXyn_of_opField hop rfl
  case h_15 hop => exact (encode_of_decodeKey h).trans (encodeXkk_of_opField hop)
  case h_16 =>
    have hop : opField w = 0xF := eq_fifteen_of_forall_ne fun k hk => by interval_cases k <;> assumption
    exact (encode_of_decodeMisc h).trans (encodeXkk_of_opField hop)

/-- Settles O2: no arm of the decoder drops a bit of the word. -/
theorem encodeOfDecode : Obligations.EncodeOfDecode := fun _ _ => encode_of_decodeWord

/-! The fields of a word as numbers -/

theorem toNat_opField (w : Word) : (opField w).toNat = w.toNat / 4096 := by
  have := w.isLt
  simp [opField, BitVec.extractLsb'_toNat, Nat.shiftRight_eq_div_pow]; omega

theorem toNat_nField (w : Word) : (nField w).toNat = w.toNat % 16 := by
  simp [nField, BitVec.extractLsb'_toNat]

theorem toNat_kkField (w : Word) : (kkField w).toNat = w.toNat % 256 := by
  simp [kkField, BitVec.extractLsb'_toNat]

/-! The unknown words of each group -/

theorem decodeZero_eq_unknown {w : Word} : decodeZero w = .unknown ↔ w ≠ 0x00E0#16 ∧ w ≠ 0x00EE#16 := by
  unfold decodeZero
  split <;> simp_all

theorem decodeIfZero_eq_unknown {n : BitVec 4} {i : Instr} : decodeIfZero n i = .unknown ↔ n.toNat ≠ 0 := by
  unfold decodeIfZero
  split <;> simp_all [BitVec.toNat_eq]

theorem decodeAlu_eq_unknown {x y : Reg} {n : BitVec 4} :
    decodeAlu x y n = .unknown ↔ n.toNat ∈ [0x8, 0x9, 0xA, 0xB, 0xC, 0xD, 0xF] := by
  unfold decodeAlu
  split
  case h_10 =>
    have := n.isLt
    simp_all [BitVec.toNat_eq]
    omega
  all_goals simp

theorem decodeKey_eq_unknown {x : Reg} {kk : Byte} : decodeKey x kk = .unknown ↔ kk.toNat ∉ [0x9E, 0xA1] := by
  unfold decodeKey
  split
  case h_3 h1 h2 => simpa [BitVec.toNat_eq] using And.intro h1 h2
  all_goals simp

theorem decodeMisc_eq_unknown {x : Reg} {kk : Byte} :
    decodeMisc x kk = .unknown ↔ kk.toNat ∉ [0x07, 0x0A, 0x15, 0x18, 0x1E, 0x29, 0x33, 0x55, 0x65] := by
  unfold decodeMisc
  split
  case h_10 => simp_all [BitVec.toNat_eq]
  all_goals simp

/-- Settles O3: the table group by group, the group read off the upper nibble. -/
theorem unknownWordsExactly : Obligations.UnknownWordsExactly := by
  intro w
  have hop := toNat_opField w
  unfold decodeWord
  split
  case h_1 h =>
    have hw : w.toNat / 4096 = 0 := by rw [← hop, h]; rfl
    simp [hw, decodeZero_eq_unknown, BitVec.toNat_eq]
  case h_6 h | h_10 h => simp [← hop, h, decodeIfZero_eq_unknown, toNat_nField]
  case h_9 h => simp [← hop, h, decodeAlu_eq_unknown, toNat_nField]
  case h_15 h => simp [← hop, h, decodeKey_eq_unknown, toNat_kkField]
  case h_16 =>
    have h : opField w = 0xF := eq_fifteen_of_forall_ne fun k hk => by interval_cases k <;> assumption
    simp [← hop, h, decodeMisc_eq_unknown, toNat_kkField]
  all_goals simp [← hop, *]

/-- Settles O4: the decoder run on each word. -/
theorem sampleWordsDecode : Obligations.SampleWordsDecode := by
  unfold Obligations.SampleWordsDecode
  decide

end Sys2Proof.Machine
end

section
/-! PROOFS. What the other instructions answer, an equation for each of their cases; and what any instruction can do to a state,
said once. -/

namespace Sys2Proof.Machine

variable {s t : State} {i : Instr}

/-! Bounds checks -/

/-- A range that passes the end of memory is outside it from its base or from the end of memory on (20 R72). -/
theorem firstOutside_of_lt {memSize base count : Nat} (h0 : count ≠ 0) (h : memSize < base + count) :
    firstOutside memSize base count = some (max base memSize) := by
  rw [firstOutside, if_neg h0, if_neg (by omega)]

/-! The instructions with one case -/

@[simp] theorem exec_shl (x y : Reg) :
    exec (.shl x y) s = .next ((s.writeResultAndFlag x (s.getV x <<< 1) (shiftedOutLeft (s.getV x))).setPc
      (s.pc + shlAdvance s.cfg.shlPcAdvance)) := rfl
@[simp] theorem exec_rnd (x : Reg) (kk : Byte) : exec (.rnd x kk) s = .next (s.setV x (s.rndIn &&& kk)).advance := rfl
@[simp] theorem exec_ldVxDt (x : Reg) : exec (.ldVxDt x) s = .next (s.setV x s.dt).advance := rfl
@[simp] theorem exec_ldVxK (x : Reg) :
    exec (.ldVxK x) s = .next ({ s with keyWait := true, waitReg := x } : State).advance := rfl
@[simp] theorem exec_ldDtVx (x : Reg) : exec (.ldDtVx x) s = .next ({ s with dt := s.getV x } : State).advance := rfl
@[simp] theorem exec_ldStVx (x : Reg) : exec (.ldStVx x) s = .next ({ s with st := s.getV x } : State).advance := rfl
@[simp] theorem exec_addI (x : Reg) :
    exec (.addI x) s = .next ((s.setI (s.i + zext16 (s.getV x))).setFlag
      (indexFlag s.cfg.fx1eVfThreshold (s.i + zext16 (s.getV x)))).advance := rfl

/-! The call stack -/

theorem exec_ret_of_empty (h : s.sp = 0) : exec .ret s = .next (s.raise .stackUnderflow (encode .ret) 0) := if_pos h
theorem exec_ret_of_ne (h : s.sp ≠ 0) : exec .ret s = .next (s.pop.setPc s.top) := if_neg h
theorem exec_call_of_full {nnn : Addr12} (h : s.cfg.stackDepth ≤ s.sp) :
    exec (.call nnn) s = .next (s.raise .stackOverflow (encode (.call nnn)) s.sp) := if_pos h
theorem exec_call_of_room {nnn : Addr12} (h : s.sp < s.cfg.stackDepth) :
    exec (.call nnn) s = .next ((s.push (s.pc + 2)).setPc (zext16 nnn)) := if_neg (Nat.not_le.mpr h)

/-! The keypad -/

theorem exec_skp_of_gt {x : Reg} (h : 0xF < (s.getV x).toNat) :
    exec (.skp x) s = .next (s.raise .keyIndex (encode (.skp x)) (s.getV x).toNat) := if_pos h
theorem exec_skp_of_le {x : Reg} (h : (s.getV x).toNat ≤ 0xF) :
    exec (.skp x) s = .next (s.skipIf (s.keyPressed (s.getV x))) := if_neg (Nat.not_lt.mpr h)
theorem exec_sknp_of_gt {x : Reg} (h : 0xF < (s.getV x).toNat) :
    exec (.sknp x) s = .next (s.raise .keyIndex (encode (.sknp x)) (s.getV x).toNat) := if_pos h
theorem exec_sknp_of_le {x : Reg} (h : (s.getV x).toNat ≤ 0xF) :
    exec (.sknp x) s = .next (s.skipIf (!s.keyPressed (s.getV x))) := if_neg (Nat.not_lt.mpr h)

/-! The accesses at I, inside memory and outside -/

theorem exec_ldB_inside {x : Reg} (h : s.effAddr 0 + 3 ≤ s.cfg.memSize) :
    exec (.ldB x) s = .next (s.storeBytes (s.effAddr 0) (bcdDigits (s.getV x))).advance := by
  simp [exec, execLdB, firstOutside_eq_none.mpr (.inr h)]
theorem exec_ldB_outside {x : Reg} (h : s.cfg.memSize < s.effAddr 0 + 3) :
    exec (.ldB x) s = .next (s.raise .writeBounds (encode (.ldB x)) (max (s.effAddr 0) s.cfg.memSize)) := by
  simp [exec, execLdB, firstOutside_of_lt (Nat.succ_ne_zero _) h]

theorem exec_stRegs_inside {x : Reg} (h : s.effAddr 0 + x.toNat < s.cfg.memSize) :
    exec (.stRegs x) s = .next (s.storeBytes (s.effAddr 0) (s.lowRegs x)).advance := by
  simp [exec, execStRegs, firstOutside_eq_none.mpr (.inr (show _ + (_ + 1) ≤ _ from h))]
theorem exec_stRegs_outside {x : Reg} (h : s.cfg.memSize ≤ s.effAddr 0 + x.toNat) :
    exec (.stRegs x) s = .next (s.raise .writeBounds (encode (.stRegs x)) (max (s.effAddr 0) s.cfg.memSize)) := by
  simp [exec, execStRegs, firstOutside_of_lt (Nat.succ_ne_zero _) (Nat.lt_succ_of_le h)]

theorem exec_ldRegs_inside {x : Reg} (h : s.effAddr 0 + x.toNat < s.cfg.memSize) :
    exec (.ldRegs x) s = .next (s.loadRegsFrom 0 (s.readBytes (s.effAddr 0) (x.toNat + 1))).advance := by
  simp [exec, execLdRegs, firstOutside_eq_none.mpr (.inr (show _ + (_ + 1) ≤ _ from h))]
theorem exec_ldRegs_outside {x : Reg} (h : s.cfg.memSize ≤ s.effAddr 0 + x.toNat) :
    exec (.ldRegs x) s = .next (s.raise .readBounds (encode (.ldRegs x)) (max (s.effAddr 0) s.cfg.memSize)) := by
  simp [exec, execLdRegs, firstOutside_of_lt (Nat.succ_ne_zero _) (Nat.lt_succ_of_le h)]

theorem exec_drw_inside {x y : Reg} {n : BitVec 4} (h : n.toNat = 0 ∨ s.effAddr 0 + n.toNat ≤ s.cfg.memSize) :
    exec (.drw x y n) s = .next (s.putCanvas (s.drawSprite x y n.toNat)).advance := by
  simp [exec, execDrw, firstOutside_eq_none.mpr h]
theorem exec_drw_outside {x y : Reg} {n : BitVec 4} (h0 : n.toNat ≠ 0) (h : s.cfg.memSize < s.effAddr 0 + n.toNat) :
    exec (.drw x y n) s = .next (s.raise .readBounds (encode (.drw x y n)) (max (s.effAddr 0) s.cfg.memSize)) := by
  simp [exec, execDrw, firstOutside_of_lt h0 h]

/-! What an instruction can do to a state -/

/-- The instructions that can latch a fault (60 R321). -/
def CanFault (i : Instr) : Prop :=
  i = .ret ∨ (∃ nnn, i = .call nnn) ∨ (∃ x y n, i = .drw x y n) ∨ (∃ x, i = .ldB x) ∨ (∃ x, i = .stRegs x) ∨
    (∃ x, i = .ldRegs x) ∨ (∃ x, i = .skp x) ∨ (∃ x, i = .sknp x)

/-- The instructions that write a plain result to `x`, with no flag: `x` is their ordinary destination (10 R31). -/
def WritesPlain (i : Instr) (x : Reg) : Prop :=
  (∃ kk, i = .ldImm x kk ∨ i = .rnd x kk) ∨
    (∃ y, i = .ldReg x y ∨ i = .orReg x y ∨ i = .andReg x y ∨ i = .xorReg x y) ∨ i = .ldVxDt x

/-- The instructions that write a result and a flag by 42 R201. -/
def WritesFlag (i : Instr) : Prop :=
  (∃ x kk, i = .addImm x kk) ∨ ∃ x y, i = .addReg x y ∨ i = .sub x y ∨ i = .shr x y ∨ i = .subn x y ∨ i = .shl x y

/-- The next states an instruction can answer, by the writes that make them: a fault latched, or one of the completed forms with
what the claims about every instruction ask of it (the target of a jump, room on the stack, a store inside memory). -/
inductive Effect (s : State) : Instr → State → Prop
  | fault {i : Instr} (h : CanFault i) (cause : FaultCause) (info : Nat) : Effect s i (s.raise cause (encode i) info)
  | jp (nnn : Addr12) : Effect s (.jp nnn) (s.setPc (zext16 nnn))
  | jpV0 (nnn : Addr12) : Effect s (.jpV0 nnn) (s.setPc (zext16 (s.getV 0) + zext16 nnn))
  | ret (h : s.sp ≠ 0) : Effect s .ret (s.pop.setPc s.top)
  | call (nnn : Addr12) (h : s.sp < s.cfg.stackDepth) : Effect s (.call nnn) ((s.push (s.pc + 2)).setPc (zext16 nnn))
  | skip {i : Instr} (c : Bool) : Effect s i (s.skipIf c)
  | reg {i : Instr} {x : Reg} (h : WritesPlain i x) (b : Byte) : Effect s i (s.setV x b).advance
  | resultAndFlag {i : Instr} (h : WritesFlag i) (x : Reg) (res : Byte) (flag : Bool) {target : Addr}
      (ht : target = s.pc + 2 ∨ target = s.pc) : Effect s i ((s.writeResultAndFlag x res flag).setPc target)
  | loadRegs {x : Reg} {v : Vector Byte Config.numV} (h : x ≠ vfReg → ({ s with v := v } : State).getV vfReg = s.getV vfReg) :
      Effect s (.ldRegs x) ({ s with v := v } : State).advance
  | setI {i : Instr} (h : (∃ nnn, i = .ldI nnn) ∨ ∃ x, i = .ldF x) (a : Addr) : Effect s i (s.setI a).advance
  | addI (x : Reg) (a : Addr) (c : Bool) : Effect s (.addI x) ((s.setI a).setFlag c).advance
  | store {i : Instr} (h : (∃ x, i = .ldB x) ∨ ∃ x, i = .stRegs x) {bs : List Byte}
      (hb : s.effAddr 0 + bs.length ≤ s.cfg.memSize) : Effect s i (s.storeBytes (s.effAddr 0) bs).advance
  | cls : Effect s .cls ({ s with fb := blankFb s.cfg, changed := true } : State).advance
  | drw (x y : Reg) (n : BitVec 4) : Effect s (.drw x y n) (s.putCanvas (s.drawSprite x y n.toNat)).advance
  | awaitKey (x : Reg) : Effect s (.ldVxK x) ({ s with keyWait := true, waitReg := x } : State).advance
  | setDt (x : Reg) : Effect s (.ldDtVx x) ({ s with dt := s.getV x } : State).advance
  | setSt (x : Reg) : Effect s (.ldStVx x) ({ s with st := s.getV x } : State).advance

/-- A register load that ends below VF leaves VF alone. -/
theorem getV_vfReg_loadRegsFrom {x : Reg} {bs : List Byte} (hx : x ≠ vfReg) (hl : bs.length = x.toNat + 1) :
    (s.loadRegsFrom 0 bs).getV vfReg = s.getV vfReg := by
  have hlt : x.toNat < 15 := by bv_omega
  rw [State.getV_loadRegsFrom s 0 bs (by omega), dif_neg]
  simp; omega

/-- Every instruction answers a next state from every state, one of those `Effect` lists. -/
theorem exists_exec_effect (i : Instr) (s : State) : ∃ t, exec i s = .next t ∧ Effect s i t := by
  cases i with
  | cls => exact ⟨_, rfl, .cls⟩
  | ret =>
    by_cases h : s.sp = 0
    · exact ⟨_, exec_ret_of_empty h, .fault (by simp [CanFault]) _ _⟩
    · exact ⟨_, exec_ret_of_ne h, .ret h⟩
  | jp nnn => exact ⟨_, rfl, .jp nnn⟩
  | call nnn =>
    by_cases h : s.sp < s.cfg.stackDepth
    · exact ⟨_, exec_call_of_room h, .call nnn h⟩
    · exact ⟨_, exec_call_of_full (Nat.not_lt.mp h), .fault (by simp [CanFault]) _ _⟩
  | seImm | sneImm | seReg | sneReg => exact ⟨_, rfl, .skip _⟩
  | ldImm | ldReg | orReg | andReg | xorReg | rnd | ldVxDt => exact ⟨_, rfl, .reg (by simp [WritesPlain]) _⟩
  | addImm | addReg | sub | shr | subn => exact ⟨_, rfl, .resultAndFlag (by simp [WritesFlag]) _ _ _ (.inl (by simp))⟩
  | shl x y => exact ⟨_, rfl, .resultAndFlag (by simp [WritesFlag]) _ _ _ (by cases s.cfg.shlPcAdvance <;> simp [shlAdvance])⟩
  | ldI nnn => exact ⟨_, rfl, .setI (.inl ⟨nnn, rfl⟩) _⟩
  | ldF x => exact ⟨_, rfl, .setI (.inr ⟨x, rfl⟩) _⟩
  | jpV0 nnn => exact ⟨_, rfl, .jpV0 nnn⟩
  | drw x y n =>
    by_cases h : n.toNat = 0 ∨ s.effAddr 0 + n.toNat ≤ s.cfg.memSize
    · exact ⟨_, exec_drw_inside h, .drw x y n⟩
    · exact ⟨_, exec_drw_outside (by omega) (by omega), .fault (by simp [CanFault]) _ _⟩
  | skp x =>
    by_cases h : (s.getV x).toNat ≤ 0xF
    · exact ⟨_, exec_skp_of_le h, .skip _⟩
    · exact ⟨_, exec_skp_of_gt (Nat.not_le.mp h), .fault (by simp [CanFault]) _ _⟩
  | sknp x =>
    by_cases h : (s.getV x).toNat ≤ 0xF
    · exact ⟨_, exec_sknp_of_le h, .skip _⟩
    · exact ⟨_, exec_sknp_of_gt (Nat.not_le.mp h), .fault (by simp [CanFault]) _ _⟩
  | ldVxK x => exact ⟨_, rfl, .awaitKey x⟩
  | ldDtVx x => exact ⟨_, rfl, .setDt x⟩
  | ldStVx x => exact ⟨_, rfl, .setSt x⟩
  | addI x => exact ⟨_, rfl, .addI x _ _⟩
  | ldB x =>
    by_cases h : s.effAddr 0 + 3 ≤ s.cfg.memSize
    · exact ⟨_, exec_ldB_inside h, .store (.inl ⟨x, rfl⟩) h⟩
    · exact ⟨_, exec_ldB_outside (Nat.not_le.mp h), .fault (by simp [CanFault]) _ _⟩
  | stRegs x =>
    by_cases h : s.effAddr 0 + x.toNat < s.cfg.memSize
    · exact ⟨_, exec_stRegs_inside h, .store (.inr ⟨x, rfl⟩) (by rw [State.length_lowRegs]; omega)⟩
    · exact ⟨_, exec_stRegs_outside (Nat.not_lt.mp h), .fault (by simp [CanFault]) _ _⟩
  | ldRegs x =>
    by_cases h : s.effAddr 0 + x.toNat < s.cfg.memSize
    · rw [exec_ldRegs_inside h, State.loadRegsFrom_frame]
      exact ⟨_, rfl, .loadRegs fun hx => getV_vfReg_loadRegsFrom hx (State.length_readBytes s _ _)⟩
    · exact ⟨_, exec_ldRegs_outside (Nat.not_lt.mp h), .fault (by simp [CanFault]) _ _⟩

/-- A next state of an instruction is one of those `Effect` lists. -/
theorem effect_of_exec (h : exec i s = .next t) : Effect s i t := by
  obtain ⟨u, hu, he⟩ := exists_exec_effect i s
  cases hu.symm.trans h
  exact he

end Sys2Proof.Machine
end

section
/-! PROOFS. What every instruction leaves alone: each claim is a case split on `Effect`, in which the forms the claim does not name
keep the field. -/

namespace Sys2Proof.Machine

variable {s t : State} {i : Instr}

/-- An instruction latches its own fault and nothing else, or keeps the fault register. -/
theorem Effect.raise_or_fault_eq (h : Effect s i t) :
    (CanFault i ∧ ∃ cause info, t = s.raise cause (encode i) info) ∨ t.fault = s.fault := by
  cases h with
  | fault hi cause info => exact .inl ⟨hi, cause, info, rfl⟩
  | _ => right; simp

theorem onlyFault_raise (cause : FaultCause) (word : Word) (info : Nat) :
    OnlyFault s (s.raise cause word info) cause word info := ⟨rfl, State.readByte_raise s cause word info⟩

/-- Settles O47: the form of `Effect` that changes the fault register is fault entry. -/
theorem faultsArePrecise : Obligations.FaultsArePrecise := by
  intro i s t h hne
  obtain ⟨-, cause, info, rfl⟩ := (effect_of_exec h).raise_or_fault_eq.resolve_right hne
  exact ⟨cause, info, onlyFault_raise cause (encode i) info⟩

/-- Settles O48: every instruction answers a form of `Effect`, and only the eight can answer fault entry. -/
theorem onlyEightInstructionsFault : Obligations.OnlyEightInstructionsFault := by
  intro i s
  obtain ⟨t, ht, he⟩ := exists_exec_effect i s
  exact ⟨t, ht, fun hne => (he.raise_or_fault_eq.resolve_right hne).1⟩

/-- Settles O49: the other forms keep the framebuffer and `changed`. -/
theorem onlyClsAndDrwDraw : Obligations.OnlyClsAndDrwDraw := by
  intro i s t h hne
  cases effect_of_exec h with
  | cls => exact .inl rfl
  | drw x y n => exact .inr ⟨x, y, n, rfl⟩
  | _ => simp at hne

/-- Settles O50: the other forms keep I. -/
theorem onlyThreeInstructionsWriteIndex : Obligations.OnlyThreeInstructionsWriteIndex := by
  intro i s t h hne
  cases effect_of_exec h with
  | setI hi a => exact hi.imp_right .inr
  | addI x => exact .inr (.inl ⟨x, rfl⟩)
  | _ => simp at hne

/-- Settles O51: the other forms keep the slots and the stack pointer, and RET keeps the slots. -/
theorem onlyCallAndRetUseStack : Obligations.OnlyCallAndRetUseStack := by
  intro i s t h
  cases effect_of_exec h with
  | call nnn => exact ⟨fun _ => ⟨nnn, rfl⟩, fun _ => .inr ⟨nnn, rfl⟩⟩
  | ret => exact ⟨fun hne => absurd rfl hne, fun _ => .inl rfl⟩
  | _ => simp

/-- Settles O52: the other forms keep memory. -/
theorem onlyTwoInstructionsStore : Obligations.OnlyTwoInstructionsStore := by
  intro i s t h hne
  cases effect_of_exec h with
  | store hi => exact hi
  | _ => simp at hne

/-- Settles O53: a plain result goes to VF only where VF is the destination, a register load reaches VF only from x = F, and the
other forms but the flag writers keep the registers. -/
theorem onlyNamedInstructionsWriteVf : Obligations.OnlyNamedInstructionsWriteVf := by
  intro i s t h hne
  cases effect_of_exec h with
  | @reg _ x hx b =>
    have hvf : x = vfReg := by_contra fun hx' => hne (State.getV_setV_ne s x vfReg b (Ne.symm hx'))
    subst hvf
    rcases hx with hx | hx | hx
    · exact .inr (.inr (.inr (.inr (.inl hx))))
    · exact .inr (.inr (.inr (.inr (.inr (.inl hx)))))
    · exact .inr (.inr (.inr (.inr (.inr (.inr (.inl hx))))))
  | resultAndFlag hi => exact hi.imp_right .inl
  | @loadRegs x v hv =>
    have hvf : x = vfReg := by_contra fun hx => hne (hv hx)
    simp [hvf]
  | addI x => exact .inr (.inr (.inr (.inl ⟨x, rfl⟩)))
  | drw x y n => exact .inr (.inr (.inl ⟨x, y, n, rfl⟩))
  | _ => exact absurd (State.getV_congr rfl vfReg) hne

/-- Settles O54: the other forms keep PC or move it by 2 or 4, and 65536 is even. -/
theorem pcParityChangesOnlyAtTransfers : Obligations.PcParityChangesOnlyAtTransfers := by
  intro i s t h hne
  cases effect_of_exec h with
  | ret => exact .inl rfl
  | jp nnn => exact .inr (.inl ⟨nnn, rfl⟩)
  | call nnn => exact .inr (.inr (.inl ⟨nnn, rfl⟩))
  | jpV0 nnn => exact .inr (.inr (.inr ⟨nnn, rfl⟩))
  | fault => simp at hne
  | skip c =>
    have : (s.skipIf c).pc.toNat % 2 = s.pc.toNat % 2 := by cases c <;> simp; omega
    exact absurd this hne
  | resultAndFlag hi x res flag ht => rcases ht with rfl | rfl <;> simp at hne
  | _ => simp at hne

end Sys2Proof.Machine
end

section
/-! PROOFS. The tick (40_dispatch.md): the executing state, and what a step is in each of the three kinds of tick. -/

namespace Sys2Proof.Machine

variable {s s0 t : State} {inp : TickInput} {i : Instr}

/-! The executing state -/

theorem countDown_eq_ofNat (t : Timer) : countDown t = BitVec.ofNat Config.timerWidth (t.toNat - 1) := by
  apply BitVec.eq_of_toNat_eq
  have := t.isLt
  rw [toNat_countDown, BitVec.toNat_ofNat, Nat.mod_eq_of_lt (by omega)]

/-- The statements' executing state is the model's: a tick's first two lines, then the timer decrements. -/
theorem decTimers_beginTick (s : State) (inp : TickInput) : (s.beginTick inp).decTimers = ExecutingState s inp := by
  simp only [State.decTimers, countDown_eq_ofNat]
  rfl

@[simp] theorem executingState_pc : (ExecutingState s inp).pc = s.pc := rfl
@[simp] theorem executingState_cfg : (ExecutingState s inp).cfg = s.cfg := rfl
@[simp] theorem executingState_phase : (ExecutingState s inp).phase = s.phase := rfl
@[simp] theorem executingState_fault : (ExecutingState s inp).fault = s.fault := rfl
@[simp] theorem executingState_keyWait : (ExecutingState s inp).keyWait = s.keyWait := rfl
@[simp] theorem executingState_readByte (a : Nat) : (ExecutingState s inp).readByte a = s.readByte a := rfl

/-! A step that is a tick -/

theorem NextTick.pc (h : NextTick s inp s0) : s0.pc = s.pc := by rw [h.frame]
theorem NextTick.cfg (h : NextTick s inp s0) : s0.cfg = s.cfg := by rw [h.frame]
theorem NextTick.keyWait (h : NextTick s inp s0) : s0.keyWait = s.keyWait := by rw [h.frame]
theorem NextTick.waitReg (h : NextTick s inp s0) : s0.waitReg = s.waitReg := by rw [h.frame]
theorem NextTick.v (h : NextTick s inp s0) : s0.v = s.v := by rw [h.frame]
theorem NextTick.dt (h : NextTick s inp s0) : s0.dt = s.dt := by rw [h.frame]
theorem NextTick.st (h : NextTick s inp s0) : s0.st = s.st := by rw [h.frame]

/-- An enabled tick's step is the rest of the tick after its first two lines. -/
theorem step_eq_tickBody (h : NextTick s inp s0) (he : TickEnabled s) : step s = tickBody (s0.beginTick inp) :=
  (step_of_nextTick h).trans (tick_enabled inp (h.enabled.mpr he))

/-- A step that fetches inside memory runs the word at PC on the executing state. -/
theorem step_executing (h : NextTick s inp s0) (he : TickEnabled s) (hk : s.keyWait = false)
    (hp : s.pc.toNat + 1 < s.cfg.memSize) :
    step s = execWord (wordOfBytes (s.readByte s.pc.toNat) (s.readByte (s.pc.toNat + 1))) (ExecutingState s0 inp) := by
  rw [step_eq_tickBody h he, tickBody_executing (by simpa [h.keyWait] using hk) (by simpa [h.pc, h.cfg] using hp),
    decTimers_beginTick]
  simp [h.pc, h.readByte]

/-- A step that fetches outside memory takes FETCH_BOUNDS on the executing state. -/
theorem step_outside (h : NextTick s inp s0) (he : TickEnabled s) (hk : s.keyWait = false)
    (hp : s.cfg.memSize ≤ s.pc.toNat + 1) :
    step s = .next ((ExecutingState s0 inp).raise .fetchBounds 0 (max s.pc.toNat s.cfg.memSize)) := by
  rw [step_eq_tickBody h he, tickBody_outside (by simpa [h.keyWait] using hk) (by simpa [h.pc, h.cfg] using hp),
    decTimers_beginTick]
  simp [h.pc, h.cfg]

/-- A step in a key-wait is the scan of this tick's keypad. -/
theorem step_waiting (h : NextTick s inp s0) (he : TickEnabled s) (hk : s.keyWait = true) :
    step s = .next (s0.beginTick inp).scanKeys := by
  rw [step_eq_tickBody h he, tickBody, if_pos (by simpa [h.keyWait] using hk)]

/-! What a decoded word runs -/

theorem execWord_instr {w : Word} (h : decodeWord w = .instr i) (s : State) : execWord w s = exec i s := by
  rw [execWord, h]
theorem execWord_unknown {w : Word} (h : decodeWord w = .unknown) (s : State) : execWord w s = .next s.advance := by
  rw [execWord, h]; rfl

/-- Every way a word reaches a next state. -/
theorem execWord_cases {w : Word} (h : execWord w s = .next t) :
    (∃ i, decodeWord w = .instr i ∧ Effect s i t) ∨ t = s.advance := by
  cases hd : decodeWord w with
  | instr i => exact .inl ⟨i, rfl, effect_of_exec ((execWord_instr hd s).symm.trans h)⟩
  | unknown => exact .inr (Host.Outcome.next.inj ((execWord_unknown hd s).symm.trans h)).symm

/-- Two bytes that decode to an instruction make a word that does. -/
theorem decodeWord_of_decode_instr {hi lo : Byte} {rest : List Byte} (h : decode [hi, lo] = .instr i rest) :
    decodeWord (wordOfBytes hi lo) = .instr i := by
  rw [decode_bytes] at h
  split at h <;> cases h
  assumption

/-- Two bytes that decode to an unknown word make a word that is unknown. -/
theorem decodeWord_of_decode_unknown {hi lo : Byte} {w : Word} {rest : List Byte} (h : decode [hi, lo] = .unknown w rest) :
    decodeWord (wordOfBytes hi lo) = .unknown := by
  rw [decode_bytes] at h
  split at h <;> cases h
  assumption

/-- Settles O33: the fetch is inside memory, and the word it reads decodes to the instruction. -/
theorem stepRunsDecoded : Obligations.StepRunsDecoded := by
  intro s s0 inp i h he hk hp hd _
  rw [step_executing h he hk hp, execWord_instr (decodeWord_of_decode_instr hd)]

/-- Settles O34: the word it reads is unknown. -/
theorem stepRunsUnknown : Obligations.StepRunsUnknown := by
  intro s s0 inp w h he hk hp hd
  rw [step_executing h he hk hp, execWord_unknown (decodeWord_of_decode_unknown hd), ← h.pc]
  rfl

/-- Settles O37: the fault is raised on the executing state, so what the tick did before the fetch stays. -/
theorem fetchOutsideFaults : Obligations.FetchOutsideFaults := by
  intro s s0 inp h he hk hp
  exact ⟨_, step_outside h he hk hp, onlyFault_raise .fetchBounds 0 _⟩

/-! Key-wait -/

/-- The scan of a keypad whose lowest pressed key is `k` puts `k` in the waiting register and ends the wait. -/
theorem scanKeys_of_pressed {k : Fin 16} (hk : s.keys[k] = true) (hlow : ∀ j : Fin 16, j < k → s.keys[j] = false) :
    s.scanKeys = { s.setV s.waitReg (BitVec.ofNat 8 k) with keyWait := false } := by
  have : firstPressed s.keys = some k.val := firstPressed_eq_some.mpr ⟨k.isLt, hk, fun j hj => hlow ⟨j, hj.trans k.isLt⟩ hj⟩
  rw [State.scanKeys, this]

/-- The scan of a keypad with no key pressed changes nothing. -/
theorem scanKeys_of_none (h : ∀ k : Fin 16, s.keys[k] = false) : s.scanKeys = s := by
  rw [State.scanKeys, firstPressed_eq_none.mpr h]

/-- A key's number as a byte. -/
theorem toNat_ofNat_key (k : Fin 16) : (BitVec.ofNat 8 k.val).toNat = k.val := by
  rw [BitVec.toNat_ofNat]; omega

/-- Settles O35: the tick is the scan of its own keypad. -/
theorem waitingTickScansKeys : Obligations.WaitingTickScansKeys := by
  intro s s0 inp h he hw
  have hstep := step_waiting h he hw
  constructor
  · intro k hk hlow
    rw [scanKeys_of_pressed (s := s0.beginTick inp) hk hlow, State.beginTick_waitReg, h.waitReg] at hstep
    refine ⟨_, hstep, ?key, fun r hr => ?regs, fun a => ?mem, rfl⟩
    case key => exact (congrArg BitVec.toNat (State.getV_setV_same _ _ _)).trans (toNat_ofNat_key k)
    case regs =>
      exact (State.getV_setV_ne _ _ _ _ (List.ne_of_not_mem_cons hr)).trans (State.getV_congr h.v r)
    case mem => exact h.readByte a
  · intro hnone
    rwa [scanKeys_of_none (s := s0.beginTick inp) hnone] at hstep

/-- Settles O36: FX0A names the waiting register, and the tick after it is a waiting tick. -/
theorem awaitKeyDelivers : Obligations.AwaitKeyDelivers := by
  intro x s inp rest k he hk hlow
  have hstep := step_waiting (s := { ({ s with keyWait := true, waitReg := x } : State).advance with host := .tick inp :: rest })
    (.inl ⟨rest, rfl, rfl⟩) he rfl
  rw [scanKeys_of_pressed (by exact hk) (by exact hlow)] at hstep
  refine ⟨_, _, exec_ldVxK x, hstep, ?_, rfl, rfl, rfl, rfl⟩
  exact (congrArg BitVec.toNat (State.getV_setV_same _ _ _)).trans (toNat_ofNat_key k)

/-! Timers -/

/-- Only FX15 writes DT. -/
theorem Effect.dt_eq (h : Effect s i t) : (∃ x, i = .ldDtVx x) ∨ t.dt = s.dt := by
  cases h with
  | setDt x => exact .inl ⟨x, rfl⟩
  | _ => right; simp

/-- Only FX18 writes ST. -/
theorem Effect.st_eq (h : Effect s i t) : (∃ x, i = .ldStVx x) ∨ t.st = s.st := by
  cases h with
  | setSt x => exact .inl ⟨x, rfl⟩
  | _ => right; simp

/-- The executing state's timers are one lower, or 0. -/
theorem NextTick.toNat_dt_executing (h : NextTick s inp s0) : (ExecutingState s0 inp).dt.toNat = s.dt.toNat - 1 := by
  rw [← decTimers_beginTick, State.decTimers_dt, toNat_countDown, State.beginTick_dt, h.dt]
theorem NextTick.toNat_st_executing (h : NextTick s inp s0) : (ExecutingState s0 inp).st.toNat = s.st.toNat - 1 := by
  rw [← decTimers_beginTick, State.decTimers_st, toNat_countDown, State.beginTick_st, h.st]

/-- Settles O38: the executing state's timers are one lower, and of the instructions only the two write them. -/
theorem timersCountDown : Obligations.TimersCountDown := by
  intro s s0 t inp h he hk hstep
  rw [← h.toNat_dt_executing, ← h.toNat_st_executing]
  by_cases hp : s.pc.toNat + 1 < s.cfg.memSize
  · rw [step_executing h he hk hp] at hstep
    rcases execWord_cases hstep with ⟨i, hd, heff⟩ | rfl
    · rw [hd]
      constructor
      · intro hne
        rw [heff.dt_eq.resolve_left fun ⟨x, hx⟩ => hne x (by rw [hx])]
      · intro hne
        rw [heff.st_eq.resolve_left fun ⟨x, hx⟩ => hne x (by rw [hx])]
    · exact ⟨fun _ => rfl, fun _ => rfl⟩
  · cases (step_outside h he hk (Nat.not_lt.mp hp)).symm.trans hstep
    exact ⟨fun _ => rfl, fun _ => rfl⟩

/-! Where there is no step, and where the machine hangs -/

/-- Settles O39: the tick asks for the phase and then for the fault register, and `load` asks for the phase. -/
theorem noStepOutsideTheProtocol : Obligations.NoStepOutsideTheProtocol := by
  intro s s0 inp bytes rest
  refine ⟨fun h hrun hfault => ?halted, fun h hinit => ?early, fun hhost hrun => ?twice⟩
  case halted =>
    obtain ⟨f, hf⟩ := Option.ne_none_iff_exists'.mp hfault
    rw [step_of_nextTick h, tick, h.frame]
    simp only [hrun, hf]
  case early =>
    rw [step_of_nextTick h, tick, h.frame]
    simp only [hinit]
  case twice => simp only [step, hostMove, hhost, hostCall, hrun]

/-- A JP to the number of PC leaves the state as it is. -/
theorem setPc_zext16_of_eq {nnn : Addr12} (h : nnn.toNat = s.pc.toNat) : s.setPc (zext16 nnn) = s := by
  have : zext16 nnn = s.pc := BitVec.eq_of_toNat_eq ((toNat_zext16 (by decide) nnn).trans h)
  rw [this, State.setPc]

/-- 8XYE where `SHL_PC_ADVANCE` is 0 keeps PC. -/
theorem pc_add_shlAdvance_of_zero (h : s.cfg.shlPcAdvance = .zero) : s.pc + shlAdvance s.cfg.shlPcAdvance = s.pc := by
  rw [h, shlAdvance]; exact BitVec.add_zero _

/-- Settles O57: the jump changes nothing of the executing state, the shift only registers. -/
theorem selfJumpAndStuckShiftHang : Obligations.SelfJumpAndStuckShiftHang := by
  intro s s0 inp i h he hk hp hd hi
  have hstep := (step_executing h he hk hp).trans (execWord_instr (decodeWord_of_decode_instr hd) _)
  have he0 : TickEnabled s0 := h.enabled.mpr he
  have hk0 : s0.keyWait = false := h.keyWait.trans hk
  rcases hi with ⟨nnn, rfl, hn⟩ | ⟨hz, x, y, rfl⟩
  · have hpc : nnn.toNat = (ExecutingState s0 inp).pc.toNat := by rw [executingState_pc, h.pc, hn]
    rw [exec_jp, setPc_zext16_of_eq hpc] at hstep
    exact ⟨_, hstep, h.pc, h.readByte, h.cfg, he0, hk0⟩
  · have hz0 : (ExecutingState s0 inp).cfg.shlPcAdvance = .zero := by rw [executingState_cfg, h.cfg, hz]
    rw [exec_shl, pc_add_shlAdvance_of_zero hz0] at hstep
    exact ⟨_, hstep, h.pc, fun a => by simp [h.readByte], by simp [h.cfg], by simpa [TickEnabled] using he0, by simpa using hk0⟩

end Sys2Proof.Machine
end

section
/-! PROOFS. What every step keeps: the parameters and the phase, and the invariant of the core, clause by clause for the effect of
an instruction and then for the host's calls and the ticks. -/

namespace Sys2Proof.Machine

variable {s s0 t : State} {inp : TickInput} {i : Instr}

/-! The parameters and the phase -/

/-- No instruction writes the parameters. -/
theorem Effect.cfg_eq (h : Effect s i t) : t.cfg = s.cfg := by
  cases h <;> simp

/-- No instruction writes the phase. -/
theorem Effect.phase_eq (h : Effect s i t) : t.phase = s.phase := by
  cases h <;> simp

/-- The rest of a tick keeps the parameters and the phase. -/
theorem tickBody_keeps (h : tickBody s = .next t) : t.cfg = s.cfg ∧ t.phase = s.phase := by
  rcases tickBody_cases h with ⟨-, rfl⟩ | ⟨-, -, rfl⟩ | ⟨-, -, hw⟩
  · simp
  · simp
  · rcases execWord_cases hw with ⟨i, -, he⟩ | rfl
    · exact ⟨he.cfg_eq, he.phase_eq⟩
    · simp

/-- Settles O56: the reset call copies the parameters, `load` is made in phase INIT, and a tick keeps both. -/
theorem stepKeepsParametersAndPhase : Obligations.StepKeepsParametersAndPhase := by
  intro s t h
  rcases step_cases h with ⟨rest, hh, rfl⟩ | ⟨bytes, rest, -, hinit, rfl⟩ | ⟨inp, s0, hn, -, hb⟩
  · exact ⟨rfl, fun _ _ => ⟨rest, hh⟩⟩
  · exact ⟨State.load_cfg _ bytes, fun hrun => by simp [hinit] at hrun⟩
  · obtain ⟨hc, hp⟩ := tickBody_keeps hb
    refine ⟨hc.trans hn.cfg, fun hrun hne => absurd ?_ hne⟩
    rw [hp, State.beginTick_phase, hn.frame]
    exact hrun

/-! The invariant through an instruction, clause by clause -/

/-- A store is inside memory, and nothing else writes memory. -/
theorem Effect.memOk (h : Effect s i t) (hm : s.memOk = true) : t.memOk = true := by
  cases h with
  | store hi hb => simpa using State.memOk_storeBytes hm hb
  | _ => exact (State.memOk_congr (by simp) (by simp)).trans hm

/-- CLS and DRW keep the shape of the framebuffer, and nothing else writes it. -/
theorem Effect.fbOk (h : Effect s i t) (hf : s.fbOk = true) : t.fbOk = true := by
  cases h with
  | cls => exact fbShaped_blankFb s.cfg
  | drw x y n => exact fbShaped_drawRows _ _ _ _ hf
  | _ => exact (State.fbOk_congr (by simp) (by simp)).trans hf

/-- A push has room, a pop only lowers the stack pointer, and nothing else moves the stack. -/
theorem Effect.stackOk (h : Effect s i t) (hs : s.StackOk) : t.StackOk := by
  cases h with
  | call nnn hr => exact hs.push hr (s.pc + 2)
  | ret => exact hs.pop
  | _ => simpa [State.StackOk] using hs

/-- The bound of the invariant on PC. -/
def pcBound (p : Params) : Nat := max 0x10FE (p.memSize + 2)

/-- A PC inside memory, moved on by at most 4, stays in the bound: no such write wraps (10 R35). -/
theorem toNat_add_le_pcBound {p : Params} (hok : p.ok = true) {a d : Addr} (hp : a.toNat + 1 < p.memSize) (hd : d.toNat ≤ 4) :
    (a + d).toNat ≤ pcBound p := by
  obtain ⟨-, hmem, -, -⟩ := Params.ok_iff.mp hok
  rw [BitVec.toNat_add, two_pow_addrWidth, pcBound, Nat.mod_eq_of_lt (by omega)]
  omega

/-- An instruction fetched inside memory leaves PC in its bound: it moves PC on by at most 4, or jumps to at most 0xFF + 0xFFF, or
returns to a slot. -/
theorem Effect.pc_le (h : Effect s i t) (hok : s.cfg.ok = true) (hp : s.pc.toNat + 1 < s.cfg.memSize)
    (hslots : ∀ a ∈ s.stack, a.toNat ≤ s.cfg.memSize) : t.pc.toNat ≤ pcBound s.cfg := by
  have h0 : s.pc.toNat ≤ pcBound s.cfg := by simp only [pcBound]; omega
  have h2 : (s.pc + 2).toNat ≤ pcBound s.cfg := toNat_add_le_pcBound hok hp (by decide)
  have h4 : (s.pc + 4).toNat ≤ pcBound s.cfg := toNat_add_le_pcBound hok hp (by decide)
  cases h with
  | fault => exact h0
  | skip c => cases c <;> assumption
  | jp nnn | call nnn =>
    rw [State.setPc_pc, toNat_zext16 (by decide), pcBound]
    have := nnn.isLt; omega
  | jpV0 nnn =>
    rw [State.setPc_pc, toNat_zext16_add_zext16, pcBound]
    have := nnn.isLt; have := (s.getV 0).isLt; omega
  | ret =>
    rw [State.setPc_pc, pcBound]
    rcases s.top_mem_or_zero with hm | hz
    · have := hslots _ hm; omega
    · simp [hz]
  | resultAndFlag hi x res flag ht => rcases ht with rfl | rfl <;> assumption
  | _ => exact h2

/-- CALL pushes an address of at most MEM_SIZE, and nothing else writes a slot. -/
theorem Effect.slots_le (h : Effect s i t) (hok : s.cfg.ok = true) (hp : s.pc.toNat + 1 < s.cfg.memSize)
    (hslots : ∀ a ∈ s.stack, a.toNat ≤ s.cfg.memSize) : ∀ a ∈ t.stack, a.toNat ≤ s.cfg.memSize := by
  cases h with
  | call nnn =>
    intro a ha
    rcases List.mem_or_eq_of_mem_set ha with hm | rfl
    · exact hslots a hm
    · obtain ⟨-, hmem, -, -⟩ := Params.ok_iff.mp hok
      rw [BitVec.toNat_add, two_pow_addrWidth]
      exact (Nat.mod_le _ _).trans hp
  | _ => simpa using hslots

/-- A fault an instruction latches names the PC that stands. -/
theorem Effect.fault_pc (h : Effect s i t) (hf : s.fault = none) {f : FaultRecord} (hft : t.fault = some f) :
    f.pc = t.pc ∧ t.keyWait = s.keyWait := by
  rcases h.raise_or_fault_eq with ⟨-, cause, info, rfl⟩ | he
  · cases hft; exact ⟨rfl, rfl⟩
  · rw [he, hf] at hft; cases hft

/-- An instruction of an executing tick, fetched inside memory, keeps the invariant. -/
theorem Effect.inv (h : Effect s i t) (hs : s.Inv) (he : TickEnabled s) (hk : s.keyWait = false)
    (hp : s.pc.toNat + 1 < s.cfg.memSize) : t.Inv := by
  obtain ⟨hok, hmem, hfb, hstack, -, hslots, -⟩ := hs
  obtain ⟨hrun, hf⟩ := he
  refine ⟨?ok, h.memOk hmem, h.fbOk hfb, h.stackOk hstack, ?pc, ?slots, fun f hft => ?fault⟩
  case ok => rwa [h.cfg_eq]
  case pc => rw [h.cfg_eq]; exact h.pc_le hok hp hslots
  case slots => rw [h.cfg_eq]; exact h.slots_le hok hp hslots
  case fault =>
    obtain ⟨hpc, hkw⟩ := h.fault_pc hf hft
    exact ⟨hpc, h.phase_eq.trans hrun, hkw.trans hk⟩

/-! The invariant through a step -/

/-- An executing tick inside memory keeps the invariant; the no-op of an unknown word moves PC as a skip not taken does. -/
theorem execWord_inv {w : Word} (h : execWord w s = .next t) (hs : s.Inv) (he : TickEnabled s) (hk : s.keyWait = false)
    (hp : s.pc.toNat + 1 < s.cfg.memSize) : t.Inv := by
  rcases execWord_cases h with ⟨i, -, heff⟩ | rfl
  · exact heff.inv hs he hk hp
  · exact (Effect.skip (i := .cls) false).inv hs he hk hp

/-- The rest of an enabled tick keeps the invariant. -/
theorem tickBody_inv (h : tickBody s = .next t) (hs : s.Inv) (he : TickEnabled s) : t.Inv := by
  rcases tickBody_cases h with ⟨-, rfl⟩ | ⟨hk, -, rfl⟩ | ⟨hk, hp, hw⟩
  · simpa [State.Inv, State.StackOk, he.2] using hs
  · obtain ⟨hok, hmem, hfb, hstack, hpc, hslots, -⟩ := hs
    exact ⟨hok, hmem, hfb, hstack, hpc, hslots, fun f hf => by cases hf; exact ⟨rfl, he.1, hk⟩⟩
  · exact execWord_inv hw hs he hk hp

/-- The host's reset call establishes the invariant for parameters a core can be built with. -/
theorem initCore_inv (hok : s.cfg.ok = true) : s.initCore.Inv := by
  obtain ⟨horigin, hmem, -, -⟩ := Params.ok_iff.mp hok
  refine ⟨hok, rfl, fbShaped_blankFb s.cfg, ⟨List.length_replicate, Nat.zero_le _⟩, ?pc, fun a ha => ?slot, fun f hf => ?fault⟩
  case pc =>
    change (BitVec.ofNat Config.addrWidth s.cfg.progOrigin).toNat ≤ max 0x10FE (s.cfg.memSize + 2)
    rw [BitVec.toNat_ofNat]
    exact (Nat.mod_le _ _).trans (by omega)
  case slot => rw [List.eq_of_mem_replicate ha]; exact Nat.zero_le _
  case fault => cases hf

/-- An image the loader accepts ends inside memory, unless it is empty (70 R352). -/
theorem progOrigin_add_le_or_nil {p : Params} {bytes : List Byte} (h : bytes.length ≤ p.maxProgLen) :
    p.progOrigin + bytes.length ≤ p.memSize ∨ bytes = [] := by
  rw [Params.maxProgLen] at h
  rcases bytes with - | ⟨b, bs⟩
  · exact .inr rfl
  · left; simp only [List.length_cons] at h ⊢; omega

/-- `load` in phase INIT keeps the invariant: an accepted image is stored inside memory, and no fault is latched yet. -/
theorem load_inv {bytes : List Byte} (hs : s.Inv) (hinit : s.phase = .init) : (s.load bytes).Inv := by
  obtain ⟨hok, hmem, hfb, hstack, hpc, hslots, hfault⟩ := hs
  have hnone (f : FaultRecord) (hf : s.fault = some f) : False := by
    obtain ⟨-, hrun, -⟩ := hfault f hf
    cases hinit.symm.trans hrun
  by_cases hw : Program.wellFormed s.cfg bytes = true
  · rw [State.load, if_pos hw]
    have hlen : bytes.length ≤ s.cfg.maxProgLen := by simpa [Program.wellFormed] using hw
    have hstored : (s.storeBytes s.cfg.progOrigin bytes).memOk = true := by
      rcases progOrigin_add_le_or_nil hlen with hin | rfl
      · exact State.memOk_storeBytes hmem hin
      · exact hmem
    exact ⟨hok, hstored, hfb, hstack, hpc, hslots, fun f hf => (hnone f hf).elim⟩
  · rw [State.load, if_neg hw]
    exact ⟨hok, hmem, hfb, hstack, hpc, hslots, fun f hf => (hnone f hf).elim⟩

/-- Taking the host's move and beginning the tick keep the invariant. -/
theorem beginTick_inv (hs : s.Inv) (h : NextTick s inp s0) : (s0.beginTick inp).Inv := by
  rw [h.frame]
  exact hs

/-- Settles O45: each of the host's calls and each kind of tick keeps the invariant. -/
theorem stepKeepsInvariant : Obligations.StepKeepsInvariant := by
  intro s t hs h
  rcases step_cases h with ⟨rest, -, rfl⟩ | ⟨bytes, rest, -, hinit, rfl⟩ | ⟨inp, s0, hn, he, hb⟩
  · obtain ⟨hok, -⟩ := hs
    exact initCore_inv hok
  · exact load_inv hs hinit
  · exact tickBody_inv hb (beginTick_inv hs hn) (hn.enabled.mpr he)

/-- Settles O46: the reset state is what the reset call makes of it. -/
theorem resetMeetsInvariant : Obligations.ResetMeetsInvariant := initCore_inv (s := State.reset) (by decide)

end Sys2Proof.Machine
end

section
/-! PROOFS. The call stack (41_control_flow.md): a push and a jump, a pop and a jump. -/

namespace Sys2Proof.Machine

variable {s : State}

/-- CALL with room leaves PC + 2 in the slot at the stack pointer. -/
theorem getElem?_stack_push (hs : s.StackOk) (hr : s.sp < s.cfg.stackDepth) (ret : Addr) :
    (s.push ret).stack[s.sp]? = some ret := by
  rw [State.push_stack, List.getElem?_set_self (hs.sp_lt_length hr)]

/-- A push leaves every other slot alone. -/
theorem getElem?_stack_push_ne (ret : Addr) {k : Nat} (hk : k ≠ s.sp) : (s.push ret).stack[k]? = s.stack[k]? := by
  rw [State.push_stack, List.getElem?_set_ne (Ne.symm hk)]

/-- Settles O6: with room CALL is a push and a jump, and a full stack is where it has none. -/
theorem callPushesOrFaults : Obligations.CallPushesOrFaults := by
  intro nnn s
  constructor
  · intro hs hr
    exact ⟨_, exec_call_of_room hr, toNat_zext16 (by decide) nnn, rfl, getElem?_stack_push hs hr _,
      fun k hk => getElem?_stack_push_ne _ hk, rfl, fun a => by simp⟩
  · intro hfull
    refine ⟨_, exec_call_of_full hfull.ge, ?_⟩
    rw [hfull]
    exact onlyFault_raise _ _ _

/-- Settles O7: RET is a pop and a jump to the slot popped, and faults where there is none. -/
theorem retPopsOrFaults : Obligations.RetPopsOrFaults := by
  intro s
  constructor
  · intro hs hne
    exact ⟨_, exec_ret_of_ne hne, rfl, hs.getElem?_top hne, rfl, fun a => by simp⟩
  · intro hz
    exact ⟨_, exec_ret_of_empty hz, onlyFault_raise _ _ _⟩

/-- Settles O8: RET pops what CALL pushed. -/
theorem callThenRetReturns : Obligations.CallThenRetReturns := by
  intro nnn s hs hr
  refine ⟨_, _, exec_call_of_room hr, exec_ret_of_ne (Nat.succ_ne_zero s.sp), ?_, fun k hk => getElem?_stack_push_ne _ hk⟩
  have htop : ((s.push (s.pc + 2)).setPc (zext16 nnn)).top = s.pc + 2 := hs.top_push hr _
  rw [htop]
  rfl

end Sys2Proof.Machine
end

section
/-! PROOFS. The left shift, and the order of a result and a flag (42_alu.md). -/

namespace Sys2Proof.Machine

variable {s : State}

/-- A left shift by 1 doubles (42 R214). -/
theorem shiftLeft_one_eq_ofNat (a : Byte) : a <<< 1 = BitVec.ofNat 8 (2 * a.toNat) := by
  apply BitVec.eq_of_toNat_eq
  rw [BitVec.toNat_shiftLeft, BitVec.toNat_ofNat, Nat.shiftLeft_eq, Nat.mul_comm, pow_one]

/-- The bit a left shift moves out, as a byte, is the quotient by 128 (42 R214). -/
theorem flagByte_shiftedOutLeft (a : Byte) : flagByte (shiftedOutLeft a) = BitVec.ofNat 8 (a.toNat / 128) := by
  have ha : a.toNat < 256 := a.isLt
  have hbit : shiftedOutLeft a = decide (a.toNat / 128 % 2 = 1) := by
    rw [shiftedOutLeft, BitVec.getLsbD, Nat.testBit_eq_decide_div_mod_eq]
  obtain h | h : a.toNat / 128 = 0 ∨ a.toNat / 128 = 1 := by omega
  all_goals simp [hbit, h]

/-- Settles O16: the result and the flag are the two halves of the doubled byte, and PC moves by the parameter. -/
theorem shiftLeftDoubles : Obligations.ShiftLeftDoubles := by
  intro x y s
  refine ⟨_, exec_shl x y, fun h => by rw [h]; rfl, pc_add_shlAdvance_of_zero, ?_⟩
  rw [← shiftLeft_one_eq_ofNat, ← flagByte_shiftedOutLeft]
  exact resultAndFlag_writeResultAndFlag_setPc x _ _ _

/-- Two writes of different registers commute. -/
theorem setV_comm {x r : Reg} (h : x ≠ r) (b c : Byte) : (s.setV x b).setV r c = (s.setV r c).setV x b := by
  have hn : x.toNat ≠ r.toNat := fun e => h (BitVec.eq_of_toNat_eq e)
  simp only [State.setV, Vector.set_comm _ _ hn]

/-- For a result that does not go to VF, `VF_ORDER` only says which of two commuting writes comes first (42 R201). -/
theorem writeResultAndFlag_of_ne {x : Reg} (hx : x ≠ vfReg) (res : Byte) (flag : Bool) :
    s.writeResultAndFlag x res flag = (s.setV x res).setFlag flag := by
  unfold State.writeResultAndFlag
  split
  · rfl
  · exact setV_comm hx.symm _ _

/-- Settles O17: each of the six answers one write of a result and a flag, which commute, and a write of PC. -/
theorem vfOrderMattersOnlyForVf : Obligations.VfOrderMattersOnlyForVf := by
  intro x y kk i s p hx hi
  simp only [List.mem_cons, List.not_mem_nil, or_false] at hi
  obtain rfl | rfl | rfl | rfl | rfl | rfl := hi
  all_goals
    refine ⟨_, _, rfl, rfl, ?_⟩
    simp only [writeResultAndFlag_of_ne hx]
    rfl

end Sys2Proof.Machine
end

section
/-! PROOFS. The index register and memory (43_index_memory.md): ADD I, BCD and the register-block transfer. -/

namespace Sys2Proof.Machine

variable {s : State}

/-- The effective address I + 0 is I. -/
@[simp] theorem effAddr_zero : s.effAddr 0 = s.i.toNat := rfl

/-- Settles O19: a write of I, of the sum modulo 65536, then of the flag. -/
theorem addIndexWritesVf : Obligations.AddIndexWritesVf := by
  intro x s
  refine ⟨_, exec_addI x, ?index, ?flag, rfl, rfl, fun r hr => ?regs, fun a => ?mem⟩
  case index =>
    rw [State.advance_i, State.setFlag_i, State.setI_i, BitVec.toNat_add, toNat_zext16 (by decide), two_pow_addrWidth]
  case flag =>
    rw [State.getV_advance, State.getV_setFlag, if_pos rfl]
    simp [flagByte, indexFlag]
  case regs => rw [State.getV_advance, State.getV_setFlag, if_neg (List.ne_of_not_mem_cons hr), State.getV_setI]
  case mem => simp

/-- Settles O20: the three bytes stored are the digits, each below 10. -/
theorem bcdStoresThreeDigits : Obligations.BcdStoresThreeDigits := by
  intro x s hm hin
  have hstored (k : Nat) (hk : k < 3) :
      (s.storeBytes (s.effAddr 0) (bcdDigits (s.getV x))).advance.readByte (s.effAddr 0 + k) = (bcdDigits (s.getV x))[k] := by
    rw [State.readByte_advance]
    exact State.readByte_storeBytes (bs := bcdDigits (s.getV x)) hm hin k hk
  have hv := (s.getV x).isLt
  refine ⟨_, exec_ldB_inside hin, ?hundreds, ?tens, ?units, fun a ha => ?outside, rfl, rfl⟩
  case hundreds =>
    refine (congrArg BitVec.toNat (hstored 0 (by decide))).trans ?_
    simp [bcdDigits]; omega
  case tens =>
    refine (congrArg BitVec.toNat (hstored 1 (by decide))).trans ?_
    simp [bcdDigits]; omega
  case units =>
    refine (congrArg BitVec.toNat (hstored 2 (by decide))).trans ?_
    simp [bcdDigits]; omega
  case outside =>
    rw [State.readByte_advance]
    exact State.readByte_storeBytes_outside s _ ha

/-- The byte a dump stores at I + r is V[r]. -/
theorem readByte_dump {x r : Reg} (hm : s.memOk = true) (hin : s.effAddr 0 + x.toNat < s.cfg.memSize) (hr : r.toNat ≤ x.toNat) :
    (s.storeBytes (s.effAddr 0) (s.lowRegs x)).readByte (s.effAddr 0 + r.toNat) = s.getV r := by
  have hlen : r.toNat < (s.lowRegs x).length := by rw [State.length_lowRegs]; omega
  rw [State.readByte_storeBytes hm (by rw [State.length_lowRegs]; omega) _ hlen, State.getElem_lowRegs,
    BitVec.ofNat_toNat, BitVec.setWidth_eq]

/-- Settles O21: the bytes stored are the registers in order. -/
theorem dumpStoresRegisters : Obligations.DumpStoresRegisters := by
  intro x s hm hin
  refine ⟨_, exec_stRegs_inside hin, fun r hr => ?stored, fun a ha => ?outside, rfl, rfl⟩
  case stored => rw [State.readByte_advance, readByte_dump hm hin hr]
  case outside =>
    rw [State.readByte_advance]
    exact State.readByte_storeBytes_outside s _ (by rwa [State.length_lowRegs])

/-- What every register reads after a load of `V[0] .. V[x]` from `a` on (43 R245). -/
theorem getV_load (x r : Reg) (a : Nat) :
    (s.loadRegsFrom 0 (s.readBytes a (x.toNat + 1))).getV r =
      if r.toNat ≤ x.toNat then s.readByte (a + r.toNat) else s.getV r := by
  have hx := x.isLt
  rw [State.getV_loadRegsFrom s 0 _ (by rw [State.length_readBytes]; omega)]
  by_cases hr : r.toNat ≤ x.toNat
  · rw [dif_pos (by rw [State.length_readBytes]; omega), if_pos hr, State.getElem_readBytes, Nat.sub_zero]
  · rw [dif_neg (by rw [State.length_readBytes]; omega), if_neg hr]

/-- Settles O22: a load writes the registers up to x, and touches registers alone. -/
theorem loadReadsRegisters : Obligations.LoadReadsRegisters := by
  intro x s hin
  refine ⟨_, exec_ldRegs_inside hin, fun r hr => ?loaded, fun r hr => ?kept, ?pc, ?frame, fun a => ?mem⟩
  case loaded => rw [State.getV_advance, getV_load, if_pos hr]
  case kept => rw [State.getV_advance, getV_load, if_neg (Nat.not_le.mpr hr)]
  all_goals rw [State.loadRegsFrom_frame]
  case pc => rfl
  case frame => rfl
  case mem => exact State.readByte_congr rfl rfl a

/-- Settles O23: the load reads at I the bytes the dump stored there, because the dump keeps I. -/
theorem dumpThenLoadRestores : Obligations.DumpThenLoadRestores := by
  intro x s v hm hin
  refine ⟨_, _, exec_stRegs_inside hin, exec_ldRegs_inside (by exact hin), ?index, fun r => ⟨fun hr => ?low, fun hr => ?high⟩⟩
  case index => rw [State.loadRegsFrom_frame]; rfl
  case low =>
    rw [State.getV_advance, getV_load, if_pos hr]
    exact readByte_dump hm hin hr
  case high =>
    rw [State.getV_advance, getV_load, if_neg (Nat.not_le.mpr hr)]
    rfl

/-- Settles O24: each access is outside memory, and the fault is the instruction's whole effect. -/
theorem boundsFaultsChangeNothing : Obligations.BoundsFaultsChangeNothing := by
  intro x y n s
  refine ⟨fun h => ⟨_, exec_ldB_outside h, ?_⟩, fun h => ⟨_, exec_stRegs_outside h, ?_⟩,
    fun h => ⟨_, exec_ldRegs_outside h, ?_⟩, fun h0 h => ⟨_, exec_drw_outside h0 h, ?_⟩⟩
  all_goals exact onlyFault_raise _ _ _

/-- Settles O25: the fetch at I reads the two bytes the dump stored first. -/
theorem storedWordIsFetched : Obligations.StoredWordIsFetched := by
  intro x s hm hin hx
  refine ⟨_, exec_stRegs_inside hin, ?_⟩
  have hpc : s.i.toNat + 1 < s.cfg.memSize := by rw [effAddr_zero] at hin; omega
  have h0 := readByte_dump hm hin (r := 0) (Nat.zero_le _)
  have h1 := readByte_dump hm hin (r := 1) hx
  refine (State.fetch_word (by exact hpc)).trans ?_
  exact congrArg Fetched.word (congrArg₂ wordOfBytes h0 h1)

end Sys2Proof.Machine
end

section
/-! PROOFS. Random, keypad and timer instructions (45_timers_keys_random.md). -/

namespace Sys2Proof.Machine

variable {s : State}

/-- Settles O29: one register write, of the AND of the tick's byte and `kk`. -/
theorem randomIsMasked : Obligations.RandomIsMasked := by
  intro x kk s
  refine ⟨_, exec_rnd x kk, rfl, onlyRegs_setV_setPc x _ _, fun j _ => ?_⟩
  rw [State.getV_advance, State.getV_setV_same, BitVec.getLsbD_and]

/-- The level of a key whose number is below 16. -/
theorem keyPressed_of_lt {k : Byte} (h : k.toNat < 16) : s.keyPressed k = s.keys[k.toNat]'h := by
  simp [State.keyPressed, h]

/-- Settles O30: with a key of the keypad both are skips on its level, with another both fault. -/
theorem keySkipsOrFaults : Obligations.KeySkipsOrFaults := by
  intro x s
  refine ⟨fun h => ⟨?skp, ?sknp⟩, fun h => ⟨⟨_, exec_skp_of_gt h, ?_⟩, ⟨_, exec_sknp_of_gt h, ?_⟩⟩⟩
  case skp =>
    obtain ⟨t, ht, hpc, honly⟩ := exec_skips_of_iff (exec_skp_of_le (Nat.le_of_lt_succ h)) (by rw [keyPressed_of_lt h])
    exact ⟨t, ht, honly, hpc⟩
  case sknp =>
    obtain ⟨t, ht, hpc, honly⟩ := exec_skips_of_iff (exec_sknp_of_le (Nat.le_of_lt_succ h))
      (by rw [keyPressed_of_lt h, Bool.not_eq_true'])
    exact ⟨t, ht, honly, hpc⟩
  all_goals exact onlyFault_raise _ _ _

/-- A snapshot beeps exactly if ST is not 0 (40 R150, 10 R40). -/
theorem snapshot_beepOut : s.snapshot.beepOut = true ↔ s.st ≠ 0 := by
  simp [State.snapshot, State.beep, Nat.pos_iff_ne_zero, BitVec.toNat_eq]

/-- Settles O31: one write of V[x], of DT, of ST. -/
theorem timerMoves : Obligations.TimerMoves := by
  intro x s
  refine ⟨⟨_, exec_ldVxDt x, State.getV_setV_same s x _, rfl, onlyRegs_setV_setPc x _ _⟩,
    ⟨_, exec_ldDtVx x, rfl, rfl, rfl, fun a => State.readByte_congr rfl rfl a⟩,
    ⟨_, exec_ldStVx x, rfl, rfl, rfl, fun a => State.readByte_congr rfl rfl a, snapshot_beepOut⟩⟩

/-- Settles O32: the wait and its target are all FX0A writes but PC. -/
theorem awaitKeyBegins : Obligations.AwaitKeyBegins := fun x _ =>
  ⟨_, exec_ldVxK x, rfl, rfl, rfl, rfl, fun a => State.readByte_congr rfl rfl a⟩

end Sys2Proof.Machine
end

section
/-! PROOFS. The host's calls (70_reset_and_hazards.md). -/

namespace Sys2Proof.Machine

variable {s : State} {bytes : List Byte} {rest : List HostOp}

/-! A step that is a call -/

theorem step_initCore (h : s.host = .initCore :: rest) : step s = .next (State.initCore { s with host := rest }) := by
  simp only [step, hostMove, h, hostCall]

theorem step_load (h : s.host = .load bytes :: rest) (hinit : s.phase = .init) :
    step s = .next (State.load { s with host := rest } bytes) := by
  simp only [step, hostMove, h, hostCall, hinit]

theorem load_of_le (h : bytes.length ≤ s.cfg.maxProgLen) : s.load bytes = s.loadImage bytes :=
  if_pos (decide_eq_true h)

theorem load_of_gt (h : s.cfg.maxProgLen < bytes.length) : s.load bytes = { s with reply := .loadTooLarge } :=
  if_neg (by simpa [Program.wellFormed] using h)

/-! The reset values -/

/-- The register file of the reset state holds 0 everywhere. -/
theorem getV_of_replicate (h : s.v = Vector.replicate Config.numV 0) (r : Reg) : s.getV r = 0 := by
  simp [State.getV, h]

/-- Where nothing is listed, memory reads as FONT below 0x50. -/
theorem readByte_font (h : s.mem = []) {a : Nat} (ha : a < 80) : s.readByte a = s.cfg.font[a] := by
  rw [State.readByte, h]; exact Memory.unlisted_font s.cfg ha

/-- Where nothing is listed, memory reads as 0 from 0x50 on. -/
theorem readByte_above_font (h : s.mem = []) {a : Nat} (ha : 80 ≤ a) : s.readByte a = 0 := by
  rw [State.readByte, h]; exact Memory.unlisted_above s.cfg ha

/-- Settles O40: every field of the next state is its reset value, and memory lists nothing. -/
theorem initializeResets : Obligations.InitializeResets := by
  intro s rest h
  refine ⟨_, step_initCore h, getV_of_replicate rfl, rfl, rfl, rfl, rfl, rfl, rfl, rfl, rfl, fun k => ?key,
    fun r c => pixel_blankFb s.cfg r c, fbShaped_blankFb s.cfg, rfl, fun a => readByte_above_font rfl,
    fun a => readByte_font rfl, rfl, rfl, rfl, rfl⟩
  case key => exact Vector.getElem_replicate k.isLt

/-- Settles O41: each field read off the reset state. -/
theorem resetStateValues : Obligations.ResetStateValues := by
  refine ⟨getV_of_replicate rfl, rfl, rfl, rfl, rfl, rfl, rfl, rfl, List.length_replicate, fun row hrow => ?row,
    fun r c => pixel_blankFb Config.params r c, fun a => readByte_above_font rfl, ?glyph0, ?glyphF⟩
  case row => rw [List.eq_of_mem_replicate hrow]; exact List.length_replicate
  case glyph0 => decide
  case glyphF => decide

/-- Settles O42: the image is stored at PROG_ORIGIN, inside memory. -/
theorem loadCopiesProgram : Obligations.LoadCopiesProgram := by
  intro s bytes rest h hinit hm hlen
  have hstep := step_load h hinit
  rw [load_of_le (s := { s with host := rest }) hlen] at hstep
  refine ⟨_, hstep, fun k hk => ?stored, fun a ha => ?outside, rfl, rfl⟩
  case stored =>
    rcases progOrigin_add_le_or_nil hlen with hin | rfl
    · exact State.readByte_storeBytes (s := { s with host := rest }) hm hin k hk
    · simp at hk
  case outside => exact State.readByte_storeBytes_outside { s with host := rest } bytes ha

/-- Settles O43: `load` rejects the image before it writes. -/
theorem oversizeLoadIsRejected : Obligations.OversizeLoadIsRejected := by
  intro s bytes rest h hinit hlen
  rw [step_load h hinit, load_of_gt (s := { s with host := rest }) hlen]

/-- With both timers at 0 an executing tick decrements nothing. -/
theorem executingState_of_timers_zero {inp : TickInput} (hdt : s.dt = 0) (hst : s.st = 0) :
    ExecutingState s inp = { s with keys := inp.keys, rndIn := inp.rnd, changed := false } := by
  have : (BitVec.ofNat Config.timerWidth ((0 : Timer).toNat - 1)) = 0 := rfl
  simp only [ExecutingState, hdt, hst, this]

/-- A pending tick with both timers at 0 runs the word at PC with nothing decremented. -/
theorem step_tick_of_timers_zero {inp : TickInput} (hhost : s.host = .tick inp :: rest) (he : TickEnabled s)
    (hk : s.keyWait = false) (hdt : s.dt = 0) (hst : s.st = 0) (hp : s.pc.toNat + 1 < s.cfg.memSize) :
    step s = execWord (wordOfBytes (s.readByte s.pc.toNat) (s.readByte (s.pc.toNat + 1)))
      { s with host := rest, keys := inp.keys, rndIn := inp.rnd, changed := false } := by
  rw [step_executing (.inl ⟨rest, hhost, rfl⟩) he hk hp,
    executingState_of_timers_zero (s := { s with host := rest }) hdt hst]

/-- A program of two bytes or more, loaded where PC stands, runs its first word in the tick after the load. -/
theorem step_after_load {b0 b1 : Byte} {inp : TickInput} (hhost : s.host = .load (b0 :: b1 :: bytes) :: .tick inp :: rest)
    (hinit : s.phase = .init) (hm : s.memOk = true) (hlen : (b0 :: b1 :: bytes).length ≤ s.cfg.maxProgLen)
    (hnone : s.fault = none) (hk : s.keyWait = false) (hdt : s.dt = 0) (hst : s.st = 0) (hpc : s.pc.toNat = s.cfg.progOrigin) :
    ∃ t, step s = .next t ∧ t.pc = s.pc ∧
      step t = execWord (wordOfBytes b0 b1) { t with host := rest, keys := inp.keys, rndIn := inp.rnd, changed := false } := by
  obtain ⟨t, hstep, hbyte, -, hrun, ht⟩ := loadCopiesProgram s _ _ hhost hinit hm hlen
  have htpc : t.pc = s.pc := by rw [ht]
  have htcfg : t.cfg = s.cfg := by rw [ht]
  have hp : t.pc.toNat + 1 < t.cfg.memSize := by
    have hin := (progOrigin_add_le_or_nil hlen).resolve_right (List.cons_ne_nil _ _)
    rw [htpc, htcfg, hpc]
    simp only [List.length_cons] at hin
    omega
  refine ⟨t, hstep, htpc, ?_⟩
  rw [step_tick_of_timers_zero (congrArg State.host ht) ⟨hrun, (congrArg State.fault ht).trans hnone⟩
    ((congrArg State.keyWait ht).trans hk) ((congrArg State.dt ht).trans hdt) ((congrArg State.st ht).trans hst) hp, htpc, hpc]
  exact congrArg (execWord · _) (congrArg₂ wordOfBytes (hbyte 0 (by simp)) (hbyte 1 (by simp)))

/-- Settles O44: the reset state is in phase INIT with PC at PROG_ORIGIN and both timers 0. -/
theorem bootRunsFirstWord : Obligations.BootRunsFirstWord := by
  intro b0 b1 bytes inp rest hlen
  have hlen' : (b0 :: b1 :: bytes).length ≤ State.reset.cfg.maxProgLen := hlen
  have hpc : State.reset.pc.toNat = State.reset.cfg.progOrigin := by decide
  exact step_after_load (s := { State.reset with host := .load (b0 :: b1 :: bytes) :: .tick inp :: rest })
    rfl rfl rfl hlen' rfl rfl rfl rfl hpc

end Sys2Proof.Machine
end

section
/-! PROOFS. Sprite draw (44_display.md): the closed form of the loops in the terms of the statements, and then a second draw as the
inverse of the first. -/

namespace Sys2Proof.Machine

variable {s t : State}

/-- The statements' coordinate of DRW is the model's (44 R271, decision D7). -/
theorem toNat_getV_coordState (s : State) (x : Reg) : (s.coordState.getV x).toNat = drawCoord s x := by
  unfold State.coordState drawCoord
  cases s.cfg.drwCoordCapture with
  | beforeClear => simp
  | afterClear => by_cases hx : x = vfReg <;> simp [State.getV_setFlag, hx]

/-- The cells a sprite covers are those the rows read at I land on. -/
theorem spriteCovers_iff {xc yc n r c : Nat} :
    SpriteCovers s xc yc n r c ↔ ∃ k, ∃ h : k < (s.readBytes (s.effAddr 0) n).length, ∃ j < 8,
      Lands s.cfg xc yc (0 + k) (s.readBytes (s.effAddr 0) n)[k] r c j := by
  constructor
  · rintro ⟨k, hk, j, hj, hbit, rfl, rfl⟩
    exact ⟨k, by simpa using hk, j, hj, by simpa [spriteBit] using hbit, by rw [Nat.zero_add]; rfl, rfl⟩
  · rintro ⟨k, hk, j, hj, hbit, rfl, rfl⟩
    exact ⟨k, by simpa using hk, j, hj, by simpa [spriteBit] using hbit, by rw [Nat.zero_add]; rfl, rfl⟩

/-- Which cells a sprite covers depends on I, the parameters and memory alone. -/
theorem spriteCovers_congr (hi : t.i = s.i) (hc : t.cfg = s.cfg) (hm : MemSame s t) {xc yc n r c : Nat} :
    SpriteCovers t xc yc n r c ↔ SpriteCovers s xc yc n r c := by
  simp only [SpriteCovers, hi, hc, hm _]

/-- A draw leaves a framebuffer of the screen's shape, inverted on the cells the sprite covers and as it was elsewhere, and its
collision bit says whether a covered cell was on. -/
theorem drawSprite_spec (hok : s.cfg.ok = true) (hfb : s.fbOk = true) (x y : Reg) (n : BitVec 4) :
    (∀ r c, SpriteCovers s (drawCoord s x) (drawCoord s y) n.toNat r c →
      pixel (s.drawSprite x y n.toNat).fb r c = !pixel s.fb r c) ∧
    (∀ r c, ¬ SpriteCovers s (drawCoord s x) (drawCoord s y) n.toNat r c →
      pixel (s.drawSprite x y n.toNat).fb r c = pixel s.fb r c) ∧
    ((s.drawSprite x y n.toNat).coll = true ↔
      ∃ r c, SpriteCovers s (drawCoord s x) (drawCoord s y) n.toNat r c ∧ pixel s.fb r c = true) ∧
    fbShaped s.cfg (s.drawSprite x y n.toNat).fb = true := by
  obtain ⟨-, -, -, hheight⟩ := Params.ok_iff.mp hok
  have hlen : 0 + (s.readBytes (s.effAddr 0) n.toNat).length ≤ s.cfg.fbH := by
    have := n.isLt
    rw [State.length_readBytes]; omega
  obtain ⟨hpix, hcoll⟩ := drawRows_spec hok (drawCoord s x) (drawCoord s y) 0 (s.readBytes (s.effAddr 0) n.toNat)
    (cv := { fb := s.fb, coll := false }) hfb hlen
  simp only [State.drawSprite, toNat_getV_coordState, spriteCovers_iff]
  refine ⟨fun r c => (hpix r c).1, fun r c => (hpix r c).2, hcoll.trans ⟨?hit, ?covered⟩, fbShaped_drawRows _ _ _ _ hfb⟩
  case hit =>
    rintro (hfalse | ⟨k, hk, j, hj, hbit, hon⟩)
    · cases hfalse
    · exact ⟨_, _, ⟨k, hk, j, hj, hbit, rfl, rfl⟩, hon⟩
  case covered =>
    rintro ⟨r, c, ⟨k, hk, j, hj, hbit, rfl, rfl⟩, hon⟩
    exact .inr ⟨k, hk, j, hj, hbit, hon⟩

/-- VF after a draw is the collision bit as a byte. -/
theorem getV_vfReg_putCanvas (cv : Canvas) : (s.putCanvas cv).advance.getV vfReg = flagByte cv.coll :=
  State.getV_setV_same _ vfReg _

/-- A draw leaves every register but VF alone. -/
theorem getV_putCanvas_ne (cv : Canvas) {r : Reg} (hr : r ≠ vfReg) : (s.putCanvas cv).advance.getV r = s.getV r :=
  State.getV_setV_ne _ vfReg r _ hr

/-- Settles O27: the closed form of the loops, and the writes of a finished draw. -/
theorem drawInvertsCoveredCells : Obligations.DrawInvertsCoveredCells := by
  intro x y n s hok hfb hin
  obtain ⟨hinverted, hkept, hcoll, hshape⟩ := drawSprite_spec hok hfb x y n
  refine ⟨_, exec_drw_inside hin, hinverted, hkept, fun hhit => ?hit, fun hmiss => ?miss, hshape, rfl, rfl, rfl,
    fun r hr => getV_putCanvas_ne _ (List.ne_of_not_mem_cons hr), fun a => by simp⟩
  case hit => rw [getV_vfReg_putCanvas, hcoll.mpr hhit, flagByte_true]
  case miss => rw [getV_vfReg_putCanvas, Bool.eq_false_iff.mpr (mt hcoll.mp hmiss), flagByte_false]

/-- A coordinate register other than VF, or any under AFTER_CLEAR, gives the same coordinate in two states that differ, of registers,
in VF alone. -/
theorem drawCoord_congr (hc : t.cfg = s.cfg) (hv : RegsSameExcept s t [vfReg]) {x : Reg}
    (hx : x ≠ vfReg ∨ s.cfg.drwCoordCapture = .afterClear) : drawCoord t x = drawCoord s x := by
  unfold drawCoord
  by_cases hvf : x = vfReg
  · have hafter := hx.resolve_left (not_not_intro hvf)
    rw [if_pos ⟨hc ▸ hafter, hvf⟩, if_pos ⟨hafter, hvf⟩]
  · rw [if_neg fun h => hvf h.2, if_neg fun h => hvf h.2, hv x (by simpa using hvf)]

/-- Settles O28: the second draw covers the same cells, so it inverts them back, and it meets a cell that is on exactly where the
first met one that was off. -/
theorem drawTwiceErases : Obligations.DrawTwiceErases := by
  intro x y n s hok hfb hin
  obtain ⟨t, ht, htinv, htkept, -, htmiss, htfb, -, -, htframe, htregs, htmem⟩ := drawInvertsCoveredCells x y n s hok hfb hin
  have hc : t.cfg = s.cfg := by rw [htframe]
  have hi : t.i = s.i := by rw [htframe]
  have hin' : n.toNat = 0 ∨ t.effAddr 0 + n.toNat ≤ t.cfg.memSize := by rwa [effAddr_zero, hi, hc]
  obtain ⟨u, hu, huinv, hukept, huhit, humiss, hufb, -, -, huframe, -, -⟩ :=
    drawInvertsCoveredCells x y n t (hc ▸ hok) htfb hin'
  refine ⟨t, u, ht, hu, fun h => ?coords, fun hx hy => ?_⟩
  case coords =>
    exact ⟨drawCoord_congr hc htregs (h.imp_left And.left), drawCoord_congr hc htregs (h.imp_left And.right)⟩
  simp only [hx, hy, spriteCovers_congr hi hc htmem] at huinv hukept huhit humiss
  have hmeets : (∃ r c, SpriteCovers s (drawCoord s x) (drawCoord s y) n.toNat r c ∧ pixel t.fb r c = true) ↔
      ∃ r c, SpriteCovers s (drawCoord s x) (drawCoord s y) n.toNat r c ∧ pixel s.fb r c = false := by
    refine exists_congr fun r => exists_congr fun c => and_congr_right fun hcov => ?_
    rw [htinv r c hcov, Bool.not_eq_true']
  refine ⟨?erased, fun hoff => htmiss ?_, fun hhit => huhit (hmeets.mpr hhit), fun hmiss => humiss (mt hmeets.mp hmiss)⟩
  case erased =>
    have huc : u.cfg = s.cfg := by rw [huframe, hc]
    refine fb_ext (p := s.cfg) (by rwa [State.fbOk, huc] at hufb) hfb fun r _ c _ => ?_
    by_cases hcov : SpriteCovers s (drawCoord s x) (drawCoord s y) n.toNat r c
    · rw [huinv r c hcov, htinv r c hcov, Bool.not_not]
    · rw [hukept r c hcov, htkept r c hcov]
  rintro ⟨r, c, hcov, hon⟩
  cases (hoff r c hcov).symm.trans hon

end Sys2Proof.Machine
end

section
/-! PROOFS. Noninterference of the inputs of a tick (40 R140): an instruction that reads neither commutes with replacing them. -/

namespace Sys2Proof.Machine

variable {s t : State} {i : Instr}

/-- The state with another keypad and another random byte. -/
def State.withInputs (s : State) (keys : Keypad) (b : Byte) : State := { s with keys := keys, rndIn := b }

theorem withInputs_of_keys_eq {keys : Keypad} (h : keys = s.keys) (b : Byte) :
    s.withInputs keys b = { s with rndIn := b } := by subst h; rfl

theorem withInputs_of_rndIn_eq {b : Byte} (h : b = s.rndIn) (keys : Keypad) :
    s.withInputs keys b = { s with keys := keys } := by subst h; rfl

variable (keys : Keypad) (b : Byte)

@[simp] theorem withInputs_cfg : (s.withInputs keys b).cfg = s.cfg := rfl

/-! The operations with a choice or a loop commute with it -/

theorem writeResultAndFlag_withInputs (x : Reg) (res : Byte) (flag : Bool) :
    (s.withInputs keys b).writeResultAndFlag x res flag = (s.writeResultAndFlag x res flag).withInputs keys b := by
  simp only [State.writeResultAndFlag, withInputs_cfg]
  cases s.cfg.vfOrder <;> rfl

theorem loadRegsFrom_withInputs (k : Nat) (bs : List Byte) :
    (s.withInputs keys b).loadRegsFrom k bs = (s.loadRegsFrom k bs).withInputs keys b := by
  induction bs generalizing s k with
  | nil => rfl
  | cons c cs ih => exact ih (s := s.setV (BitVec.ofNat 4 k) c) (k + 1)

theorem drawSprite_withInputs (x y : Reg) (n : Nat) : (s.withInputs keys b).drawSprite x y n = s.drawSprite x y n := by
  simp only [State.drawSprite, toNat_getV_coordState]
  rfl

/-! The instructions commute with it -/

/-- States that are equal before the last write are equal answers after it. -/
theorem next_congr (last : State → State) {u v : State} (h : u = v) :
    (.next (last u) : Host.Outcome State Fault Refusal) = .next (last v) := by rw [h]

/-- An instruction does the same with other inputs, unless the input that differs is one it reads. -/
theorem exec_withInputs (i : Instr) (hr : (∃ x kk, i = .rnd x kk) → b = s.rndIn)
    (hk : (∃ x, i = .skp x ∨ i = .sknp x) → keys = s.keys) :
    ∃ t, exec i s = .next t ∧ exec i (s.withInputs keys b) = .next (t.withInputs keys b) := by
  cases i with
  | cls | jp | jpV0 | seImm | sneImm | seReg | sneReg | ldImm | ldReg | orReg | andReg | xorReg | ldI | ldF | addI | ldVxDt
  | ldVxK | ldDtVx | ldStVx => exact ⟨_, rfl, rfl⟩
  | addImm | addReg | sub | shr | subn =>
    exact ⟨_, rfl, next_congr State.advance (writeResultAndFlag_withInputs keys b _ _ _)⟩
  | shl => exact ⟨_, rfl, next_congr (State.setPc · _) (writeResultAndFlag_withInputs keys b _ _ _)⟩
  | ret =>
    by_cases h : s.sp = 0
    · exact ⟨_, exec_ret_of_empty h, exec_ret_of_empty h⟩
    · exact ⟨_, exec_ret_of_ne h, exec_ret_of_ne h⟩
  | call nnn =>
    by_cases h : s.sp < s.cfg.stackDepth
    · exact ⟨_, exec_call_of_room h, exec_call_of_room h⟩
    · exact ⟨_, exec_call_of_full (Nat.not_lt.mp h), exec_call_of_full (Nat.not_lt.mp h)⟩
  | rnd x kk =>
    obtain rfl := hr ⟨x, kk, rfl⟩
    exact ⟨_, rfl, rfl⟩
  | skp x =>
    obtain rfl := hk ⟨x, .inl rfl⟩
    by_cases h : (s.getV x).toNat ≤ 0xF
    · exact ⟨_, exec_skp_of_le h, exec_skp_of_le h⟩
    · exact ⟨_, exec_skp_of_gt (Nat.not_le.mp h), exec_skp_of_gt (Nat.not_le.mp h)⟩
  | sknp x =>
    obtain rfl := hk ⟨x, .inr rfl⟩
    by_cases h : (s.getV x).toNat ≤ 0xF
    · exact ⟨_, exec_sknp_of_le h, exec_sknp_of_le h⟩
    · exact ⟨_, exec_sknp_of_gt (Nat.not_le.mp h), exec_sknp_of_gt (Nat.not_le.mp h)⟩
  | ldB x =>
    by_cases h : s.effAddr 0 + 3 ≤ s.cfg.memSize
    · exact ⟨_, exec_ldB_inside h, exec_ldB_inside h⟩
    · exact ⟨_, exec_ldB_outside (Nat.not_le.mp h), exec_ldB_outside (Nat.not_le.mp h)⟩
  | stRegs x =>
    by_cases h : s.effAddr 0 + x.toNat < s.cfg.memSize
    · exact ⟨_, exec_stRegs_inside h, exec_stRegs_inside h⟩
    · exact ⟨_, exec_stRegs_outside (Nat.not_lt.mp h), exec_stRegs_outside (Nat.not_lt.mp h)⟩
  | ldRegs x =>
    by_cases h : s.effAddr 0 + x.toNat < s.cfg.memSize
    · refine ⟨_, exec_ldRegs_inside h, (exec_ldRegs_inside (by exact h)).trans ?_⟩
      exact next_congr State.advance (loadRegsFrom_withInputs keys b _ _)
    · exact ⟨_, exec_ldRegs_outside (Nat.not_lt.mp h), exec_ldRegs_outside (Nat.not_lt.mp h)⟩
  | drw x y n =>
    by_cases h : n.toNat = 0 ∨ s.effAddr 0 + n.toNat ≤ s.cfg.memSize
    · refine ⟨_, exec_drw_inside h, (exec_drw_inside (by exact h)).trans ?_⟩
      rw [drawSprite_withInputs]
      rfl
    · obtain ⟨h0, hlt⟩ : n.toNat ≠ 0 ∧ s.cfg.memSize < s.effAddr 0 + n.toNat := by omega
      exact ⟨_, exec_drw_outside h0 hlt, exec_drw_outside h0 hlt⟩

/-! No instruction writes the inputs -/

theorem Effect.keys_eq (h : Effect s i t) : t.keys = s.keys := by cases h <;> simp
theorem Effect.rndIn_eq (h : Effect s i t) : t.rndIn = s.rndIn := by cases h <;> simp

/-- Settles O55: either input alone is replaced, the other put back as it was. -/
theorem inputsReadOnlyByNamedInstructions : Obligations.InputsReadOnlyByNamedInstructions := by
  intro i s t h
  have heff := effect_of_exec h
  constructor
  · intro b hne
    obtain ⟨u, hu, hu'⟩ := exec_withInputs s.keys b i (fun ⟨x, kk, hi⟩ => absurd hi (hne x kk)) fun _ => rfl
    cases hu.symm.trans h
    rwa [withInputs_of_keys_eq rfl, withInputs_of_keys_eq heff.keys_eq.symm] at hu'
  · intro keys hskp hsknp
    obtain ⟨u, hu, hu'⟩ := exec_withInputs keys s.rndIn i (fun _ => rfl)
      fun ⟨x, hi⟩ => hi.elim (absurd · (hskp x)) (absurd · (hsknp x))
    cases hu.symm.trans h
    rwa [withInputs_of_rndIn_eq rfl, withInputs_of_rndIn_eq heff.rndIn_eq.symm] at hu'

end Sys2Proof.Machine
end
